-- ==== Sys2Proof/Word.lean ====
section
/-! DEFINITION. The two word types of the machine (spec rule R6: every value is a u8 or a u16) and their wrapping
additions (rules R7, R8). -/

namespace Sys2Proof

/-- A byte: the width of A, X, Y, SP, P and of every bus transaction (rules R5, R64). -/
abbrev Byte := BitVec 8

/-- A 16-bit word: the width of PC and of every address (rule R5). -/
abbrev Word := BitVec 16

/-- `add8` of rule R7: addition modulo 256. -/
abbrev add8 (a b : Byte) : Byte := a + b

/-- `sub8` of rule R7: subtraction modulo 256. -/
abbrev sub8 (a b : Byte) : Byte := a - b

/-- `add16` of rule R7: addition modulo 65536. -/
abbrev add16 (a b : Word) : Word := a + b

end Sys2Proof
end

