-- ==== Sys2Proof/Opcode.lean ====
section
/-! DEFINITION. The vocabulary of the opcode table: the 56 mnemonics, the 13 addressing modes with their operands, and
the record of one table row (spec/30_encoding.md rules R80, R81, R83, R84). -/

namespace Sys2Proof

/-- The 56 mnemonics of rule R84. -/
inductive Mnemonic where
  | adc | and | asl | bcc | bcs | beq | bit | bmi | bne | bpl | brk | bvc | bvs | clc | cld | cli | clv | cmp | cpx | cpy
  | dec | dex | dey | eor | inc | inx | iny | jmp | jsr | lda | ldx | ldy | lsr | nop | ora | pha | php | pla | plp | rol
  | ror | rti | rts | sbc | sec | sed | sei | sta | stx | sty | tax | tay | tsx | txa | txs | tya
  deriving DecidableEq, Repr

/-- The closed set of addressing modes of rule R81. -/
inductive AddressingMode where
  | implied | accumulator | immediate | zeroPage | zeroPageX | zeroPageY | absolute | absoluteX | absoluteY
  | indirect | indirectX | indirectY | relative
  deriving DecidableEq, Repr

/-- An addressing mode with the operand its bytes give (rule R81): a byte, a 16-bit address, or nothing. -/
inductive Operand where
  | implied
  | accumulator
  | immediate (value : Byte)
  | zeroPage (z : Byte)
  | zeroPageX (z : Byte)
  | zeroPageY (z : Byte)
  | absolute (w : Word)
  | absoluteX (w : Word)
  | absoluteY (w : Word)
  | indirect (ptr : Word)
  | indirectX (z : Byte)
  | indirectY (z : Byte)
  | relative (d : Byte)
  deriving DecidableEq, Repr

/-- The mode an operand belongs to. -/
def Operand.mode : Operand → AddressingMode
  | .implied => .implied
  | .accumulator => .accumulator
  | .immediate _ => .immediate
  | .zeroPage _ => .zeroPage
  | .zeroPageX _ => .zeroPageX
  | .zeroPageY _ => .zeroPageY
  | .absolute _ => .absolute
  | .absoluteX _ => .absoluteX
  | .absoluteY _ => .absoluteY
  | .indirect _ => .indirect
  | .indirectX _ => .indirectX
  | .indirectY _ => .indirectY
  | .relative _ => .relative

/-- One row of the OpcodeTable (rule R83), with the page-crossing mark of rule R269. -/
structure OpcodeRecord where
  code : Byte
  mnemonic : Mnemonic
  mode : AddressingMode
  length : Nat
  baseCycles : Nat
  pageCrossPenalty : Bool
  deriving DecidableEq, Repr

end Sys2Proof
end

