-- ==== Sys2Proof/WellFormed.lean ====
section
/-! DEFINITION. What an assembler may be given (spec/30_encoding.md rules R88, R89): a mnemonic with a mode it has in the
opcode table, and a branch target the displacement can reach. Every term of `Instr` is well formed (the law
`Instr.wellFormed_true`): its constructors are the table's rows, and every operand value is legal (rule R86). -/

namespace Sys2Proof

/-- The addressing modes the table of rule R84 gives a mnemonic. -/
def Mnemonic.modes : Mnemonic → List AddressingMode
  | .lda => [.immediate, .zeroPage, .zeroPageX, .absolute, .absoluteX, .absoluteY, .indirectX, .indirectY]
  | .ldx => [.immediate, .zeroPage, .zeroPageY, .absolute, .absoluteY]
  | .ldy => [.immediate, .zeroPage, .zeroPageX, .absolute, .absoluteX]
  | .sta => [.zeroPage, .zeroPageX, .absolute, .absoluteX, .absoluteY, .indirectX, .indirectY]
  | .stx => [.zeroPage, .zeroPageY, .absolute]
  | .sty => [.zeroPage, .zeroPageX, .absolute]
  | .tax => [.implied]
  | .tay => [.implied]
  | .txa => [.implied]
  | .tya => [.implied]
  | .tsx => [.implied]
  | .txs => [.implied]
  | .adc => [.immediate, .zeroPage, .zeroPageX, .absolute, .absoluteX, .absoluteY, .indirectX, .indirectY]
  | .sbc => [.immediate, .zeroPage, .zeroPageX, .absolute, .absoluteX, .absoluteY, .indirectX, .indirectY]
  | .cmp => [.immediate, .zeroPage, .zeroPageX, .absolute, .absoluteX, .absoluteY, .indirectX, .indirectY]
  | .cpx => [.immediate, .zeroPage, .absolute]
  | .cpy => [.immediate, .zeroPage, .absolute]
  | .and => [.immediate, .zeroPage, .zeroPageX, .absolute, .absoluteX, .absoluteY, .indirectX, .indirectY]
  | .ora => [.immediate, .zeroPage, .zeroPageX, .absolute, .absoluteX, .absoluteY, .indirectX, .indirectY]
  | .eor => [.immediate, .zeroPage, .zeroPageX, .absolute, .absoluteX, .absoluteY, .indirectX, .indirectY]
  | .bit => [.zeroPage, .absolute]
  | .asl => [.accumulator, .zeroPage, .zeroPageX, .absolute, .absoluteX]
  | .lsr => [.accumulator, .zeroPage, .zeroPageX, .absolute, .absoluteX]
  | .rol => [.accumulator, .zeroPage, .zeroPageX, .absolute, .absoluteX]
  | .ror => [.accumulator, .zeroPage, .zeroPageX, .absolute, .absoluteX]
  | .inc => [.zeroPage, .zeroPageX, .absolute, .absoluteX]
  | .dec => [.zeroPage, .zeroPageX, .absolute, .absoluteX]
  | .inx => [.implied]
  | .iny => [.implied]
  | .dex => [.implied]
  | .dey => [.implied]
  | .bpl => [.relative]
  | .bmi => [.relative]
  | .bvc => [.relative]
  | .bvs => [.relative]
  | .bcc => [.relative]
  | .bcs => [.relative]
  | .bne => [.relative]
  | .beq => [.relative]
  | .pha => [.implied]
  | .php => [.implied]
  | .pla => [.implied]
  | .plp => [.implied]
  | .jsr => [.absolute]
  | .rts => [.implied]
  | .rti => [.implied]
  | .jmp => [.absolute, .indirect]
  | .clc => [.implied]
  | .sec => [.implied]
  | .cli => [.implied]
  | .sei => [.implied]
  | .cld => [.implied]
  | .sed => [.implied]
  | .clv => [.implied]
  | .nop => [.implied]
  | .brk => [.implied]

/-- A line of an assembler program: any mnemonic with any operand, legal or not. -/
structure AsmLine where
  mnemonic : Mnemonic
  operand : Operand
  deriving DecidableEq, Repr

/-- Rule R89: the mnemonic has the mode in the table of rule R84. -/
def AsmLine.wellFormed (l : AsmLine) : Bool := l.mnemonic.modes.contains l.operand.mode

/-- The line of an instruction. -/
def Instr.line (i : Instr) : AsmLine := ⟨i.mnemonic, i.operand⟩

/-- The well-formedness of an instruction. -/
def Instr.wellFormed (i : Instr) : Bool := i.line.wellFormed

/-- Rule R88: a branch at whose end PC is `next` reaches `target` only from `next - 128` to `next + 127`, modulo 2^16. -/
def branchReaches (next target : Word) : Bool :=
  let d := target - next
  decide (d.toNat ≤ 0x7F) || decide (0xFF80 ≤ d.toNat)

end Sys2Proof
end

