-- ==== Sys2Proof/Decode.lean ====
section
/-! DEFINITION. The opcode table, the decoder (total on any bytes, rejecting by name) and the encoder, written from
spec/30_encoding.md rules R80 to R87. -/

namespace Sys2Proof

/-- The 16-bit value of two bytes stored little-endian, `(hi << 8) | lo` (rules R6, R62). -/
def wordOf (lo hi : Byte) : Word := hi ++ lo

/-- Bits 7..0 of a word (rule R6). -/
def loByte (w : Word) : Byte := w.extractLsb' 0 8

/-- Bits 15..8 of a word (rule R6). -/
def hiByte (w : Word) : Byte := w.extractLsb' 8 8

/-- `zext_16` of rule R7. -/
def zext (b : Byte) : Word := b.zeroExtend 16

/-- `sext_16` of rule R7. -/
def sext (b : Byte) : Word := b.signExtend 16

/-- How many operand bytes an addressing mode has: the layouts L1, L2, L3 of rule R80 less the opcode byte. -/
def AddressingMode.operandBytes : AddressingMode → Nat
  | .implied | .accumulator => 0
  | .immediate | .zeroPage | .zeroPageX | .zeroPageY | .indirectX | .indirectY | .relative => 1
  | .absolute | .absoluteX | .absoluteY | .indirect => 2

/-- The operand bytes as they follow the opcode in memory; a 16-bit operand is little-endian (rules R80, R81). -/
def Operand.bytes : Operand → List Byte
  | .implied | .accumulator => []
  | .immediate b | .zeroPage b | .zeroPageX b | .zeroPageY b | .indirectX b | .indirectY b | .relative b => [b]
  | .absolute w | .absoluteX w | .absoluteY w | .indirect w => [loByte w, hiByte w]

/-- Rule R84, row 0x. -/
def opcodeRow0 : List OpcodeRecord := [
  ⟨0x00#8, .brk, .implied, 1, 7, false⟩,
  ⟨0x01#8, .ora, .indirectX, 2, 6, false⟩,
  ⟨0x05#8, .ora, .zeroPage, 2, 3, false⟩,
  ⟨0x06#8, .asl, .zeroPage, 2, 5, false⟩,
  ⟨0x08#8, .php, .implied, 1, 3, false⟩,
  ⟨0x09#8, .ora, .immediate, 2, 2, false⟩,
  ⟨0x0A#8, .asl, .accumulator, 1, 2, false⟩,
  ⟨0x0D#8, .ora, .absolute, 3, 4, false⟩,
  ⟨0x0E#8, .asl, .absolute, 3, 6, false⟩]

/-- Rule R84, row 1x. -/
def opcodeRow1 : List OpcodeRecord := [
  ⟨0x10#8, .bpl, .relative, 2, 2, false⟩,
  ⟨0x11#8, .ora, .indirectY, 2, 5, true⟩,
  ⟨0x15#8, .ora, .zeroPageX, 2, 4, false⟩,
  ⟨0x16#8, .asl, .zeroPageX, 2, 6, false⟩,
  ⟨0x18#8, .clc, .implied, 1, 2, false⟩,
  ⟨0x19#8, .ora, .absoluteY, 3, 4, true⟩,
  ⟨0x1D#8, .ora, .absoluteX, 3, 4, true⟩,
  ⟨0x1E#8, .asl, .absoluteX, 3, 7, false⟩]

/-- Rule R84, row 2x. -/
def opcodeRow2 : List OpcodeRecord := [
  ⟨0x20#8, .jsr, .absolute, 3, 6, false⟩,
  ⟨0x21#8, .and, .indirectX, 2, 6, false⟩,
  ⟨0x24#8, .bit, .zeroPage, 2, 3, false⟩,
  ⟨0x25#8, .and, .zeroPage, 2, 3, false⟩,
  ⟨0x26#8, .rol, .zeroPage, 2, 5, false⟩,
  ⟨0x28#8, .plp, .implied, 1, 4, false⟩,
  ⟨0x29#8, .and, .immediate, 2, 2, false⟩,
  ⟨0x2A#8, .rol, .accumulator, 1, 2, false⟩,
  ⟨0x2C#8, .bit, .absolute, 3, 4, false⟩,
  ⟨0x2D#8, .and, .absolute, 3, 4, false⟩,
  ⟨0x2E#8, .rol, .absolute, 3, 6, false⟩]

/-- Rule R84, row 3x. -/
def opcodeRow3 : List OpcodeRecord := [
  ⟨0x30#8, .bmi, .relative, 2, 2, false⟩,
  ⟨0x31#8, .and, .indirectY, 2, 5, true⟩,
  ⟨0x35#8, .and, .zeroPageX, 2, 4, false⟩,
  ⟨0x36#8, .rol, .zeroPageX, 2, 6, false⟩,
  ⟨0x38#8, .sec, .implied, 1, 2, false⟩,
  ⟨0x39#8, .and, .absoluteY, 3, 4, true⟩,
  ⟨0x3D#8, .and, .absoluteX, 3, 4, true⟩,
  ⟨0x3E#8, .rol, .absoluteX, 3, 7, false⟩]

/-- Rule R84, row 4x. -/
def opcodeRow4 : List OpcodeRecord := [
  ⟨0x40#8, .rti, .implied, 1, 6, false⟩,
  ⟨0x41#8, .eor, .indirectX, 2, 6, false⟩,
  ⟨0x45#8, .eor, .zeroPage, 2, 3, false⟩,
  ⟨0x46#8, .lsr, .zeroPage, 2, 5, false⟩,
  ⟨0x48#8, .pha, .implied, 1, 3, false⟩,
  ⟨0x49#8, .eor, .immediate, 2, 2, false⟩,
  ⟨0x4A#8, .lsr, .accumulator, 1, 2, false⟩,
  ⟨0x4C#8, .jmp, .absolute, 3, 3, false⟩,
  ⟨0x4D#8, .eor, .absolute, 3, 4, false⟩,
  ⟨0x4E#8, .lsr, .absolute, 3, 6, false⟩]

/-- Rule R84, row 5x. -/
def opcodeRow5 : List OpcodeRecord := [
  ⟨0x50#8, .bvc, .relative, 2, 2, false⟩,
  ⟨0x51#8, .eor, .indirectY, 2, 5, true⟩,
  ⟨0x55#8, .eor, .zeroPageX, 2, 4, false⟩,
  ⟨0x56#8, .lsr, .zeroPageX, 2, 6, false⟩,
  ⟨0x58#8, .cli, .implied, 1, 2, false⟩,
  ⟨0x59#8, .eor, .absoluteY, 3, 4, true⟩,
  ⟨0x5D#8, .eor, .absoluteX, 3, 4, true⟩,
  ⟨0x5E#8, .lsr, .absoluteX, 3, 7, false⟩]

/-- Rule R84, row 6x. -/
def opcodeRow6 : List OpcodeRecord := [
  ⟨0x60#8, .rts, .implied, 1, 6, false⟩,
  ⟨0x61#8, .adc, .indirectX, 2, 6, false⟩,
  ⟨0x65#8, .adc, .zeroPage, 2, 3, false⟩,
  ⟨0x66#8, .ror, .zeroPage, 2, 5, false⟩,
  ⟨0x68#8, .pla, .implied, 1, 4, false⟩,
  ⟨0x69#8, .adc, .immediate, 2, 2, false⟩,
  ⟨0x6A#8, .ror, .accumulator, 1, 2, false⟩,
  ⟨0x6C#8, .jmp, .indirect, 3, 5, false⟩,
  ⟨0x6D#8, .adc, .absolute, 3, 4, false⟩,
  ⟨0x6E#8, .ror, .absolute, 3, 6, false⟩]

/-- Rule R84, row 7x. -/
def opcodeRow7 : List OpcodeRecord := [
  ⟨0x70#8, .bvs, .relative, 2, 2, false⟩,
  ⟨0x71#8, .adc, .indirectY, 2, 5, true⟩,
  ⟨0x75#8, .adc, .zeroPageX, 2, 4, false⟩,
  ⟨0x76#8, .ror, .zeroPageX, 2, 6, false⟩,
  ⟨0x78#8, .sei, .implied, 1, 2, false⟩,
  ⟨0x79#8, .adc, .absoluteY, 3, 4, true⟩,
  ⟨0x7D#8, .adc, .absoluteX, 3, 4, true⟩,
  ⟨0x7E#8, .ror, .absoluteX, 3, 7, false⟩]

/-- Rule R84, row 8x. -/
def opcodeRow8 : List OpcodeRecord := [
  ⟨0x81#8, .sta, .indirectX, 2, 6, false⟩,
  ⟨0x84#8, .sty, .zeroPage, 2, 3, false⟩,
  ⟨0x85#8, .sta, .zeroPage, 2, 3, false⟩,
  ⟨0x86#8, .stx, .zeroPage, 2, 3, false⟩,
  ⟨0x88#8, .dey, .implied, 1, 2, false⟩,
  ⟨0x8A#8, .txa, .implied, 1, 2, false⟩,
  ⟨0x8C#8, .sty, .absolute, 3, 4, false⟩,
  ⟨0x8D#8, .sta, .absolute, 3, 4, false⟩,
  ⟨0x8E#8, .stx, .absolute, 3, 4, false⟩]

/-- Rule R84, row 9x. -/
def opcodeRow9 : List OpcodeRecord := [
  ⟨0x90#8, .bcc, .relative, 2, 2, false⟩,
  ⟨0x91#8, .sta, .indirectY, 2, 6, false⟩,
  ⟨0x94#8, .sty, .zeroPageX, 2, 4, false⟩,
  ⟨0x95#8, .sta, .zeroPageX, 2, 4, false⟩,
  ⟨0x96#8, .stx, .zeroPageY, 2, 4, false⟩,
  ⟨0x98#8, .tya, .implied, 1, 2, false⟩,
  ⟨0x99#8, .sta, .absoluteY, 3, 5, false⟩,
  ⟨0x9A#8, .txs, .implied, 1, 2, false⟩,
  ⟨0x9D#8, .sta, .absoluteX, 3, 5, false⟩]

/-- Rule R84, row Ax. -/
def opcodeRowA : List OpcodeRecord := [
  ⟨0xA0#8, .ldy, .immediate, 2, 2, false⟩,
  ⟨0xA1#8, .lda, .indirectX, 2, 6, false⟩,
  ⟨0xA2#8, .ldx, .immediate, 2, 2, false⟩,
  ⟨0xA4#8, .ldy, .zeroPage, 2, 3, false⟩,
  ⟨0xA5#8, .lda, .zeroPage, 2, 3, false⟩,
  ⟨0xA6#8, .ldx, .zeroPage, 2, 3, false⟩,
  ⟨0xA8#8, .tay, .implied, 1, 2, false⟩,
  ⟨0xA9#8, .lda, .immediate, 2, 2, false⟩,
  ⟨0xAA#8, .tax, .implied, 1, 2, false⟩,
  ⟨0xAC#8, .ldy, .absolute, 3, 4, false⟩,
  ⟨0xAD#8, .lda, .absolute, 3, 4, false⟩,
  ⟨0xAE#8, .ldx, .absolute, 3, 4, false⟩]

/-- Rule R84, row Bx. -/
def opcodeRowB : List OpcodeRecord := [
  ⟨0xB0#8, .bcs, .relative, 2, 2, false⟩,
  ⟨0xB1#8, .lda, .indirectY, 2, 5, true⟩,
  ⟨0xB4#8, .ldy, .zeroPageX, 2, 4, false⟩,
  ⟨0xB5#8, .lda, .zeroPageX, 2, 4, false⟩,
  ⟨0xB6#8, .ldx, .zeroPageY, 2, 4, false⟩,
  ⟨0xB8#8, .clv, .implied, 1, 2, false⟩,
  ⟨0xB9#8, .lda, .absoluteY, 3, 4, true⟩,
  ⟨0xBA#8, .tsx, .implied, 1, 2, false⟩,
  ⟨0xBC#8, .ldy, .absoluteX, 3, 4, true⟩,
  ⟨0xBD#8, .lda, .absoluteX, 3, 4, true⟩,
  ⟨0xBE#8, .ldx, .absoluteY, 3, 4, true⟩]

/-- Rule R84, row Cx. -/
def opcodeRowC : List OpcodeRecord := [
  ⟨0xC0#8, .cpy, .immediate, 2, 2, false⟩,
  ⟨0xC1#8, .cmp, .indirectX, 2, 6, false⟩,
  ⟨0xC4#8, .cpy, .zeroPage, 2, 3, false⟩,
  ⟨0xC5#8, .cmp, .zeroPage, 2, 3, false⟩,
  ⟨0xC6#8, .dec, .zeroPage, 2, 5, false⟩,
  ⟨0xC8#8, .iny, .implied, 1, 2, false⟩,
  ⟨0xC9#8, .cmp, .immediate, 2, 2, false⟩,
  ⟨0xCA#8, .dex, .implied, 1, 2, false⟩,
  ⟨0xCC#8, .cpy, .absolute, 3, 4, false⟩,
  ⟨0xCD#8, .cmp, .absolute, 3, 4, false⟩,
  ⟨0xCE#8, .dec, .absolute, 3, 6, false⟩]

/-- Rule R84, row Dx. -/
def opcodeRowD : List OpcodeRecord := [
  ⟨0xD0#8, .bne, .relative, 2, 2, false⟩,
  ⟨0xD1#8, .cmp, .indirectY, 2, 5, true⟩,
  ⟨0xD5#8, .cmp, .zeroPageX, 2, 4, false⟩,
  ⟨0xD6#8, .dec, .zeroPageX, 2, 6, false⟩,
  ⟨0xD8#8, .cld, .implied, 1, 2, false⟩,
  ⟨0xD9#8, .cmp, .absoluteY, 3, 4, true⟩,
  ⟨0xDD#8, .cmp, .absoluteX, 3, 4, true⟩,
  ⟨0xDE#8, .dec, .absoluteX, 3, 7, false⟩]

/-- Rule R84, row Ex. -/
def opcodeRowE : List OpcodeRecord := [
  ⟨0xE0#8, .cpx, .immediate, 2, 2, false⟩,
  ⟨0xE1#8, .sbc, .indirectX, 2, 6, false⟩,
  ⟨0xE4#8, .cpx, .zeroPage, 2, 3, false⟩,
  ⟨0xE5#8, .sbc, .zeroPage, 2, 3, false⟩,
  ⟨0xE6#8, .inc, .zeroPage, 2, 5, false⟩,
  ⟨0xE8#8, .inx, .implied, 1, 2, false⟩,
  ⟨0xE9#8, .sbc, .immediate, 2, 2, false⟩,
  ⟨0xEA#8, .nop, .implied, 1, 2, false⟩,
  ⟨0xEC#8, .cpx, .absolute, 3, 4, false⟩,
  ⟨0xED#8, .sbc, .absolute, 3, 4, false⟩,
  ⟨0xEE#8, .inc, .absolute, 3, 6, false⟩]

/-- Rule R84, row Fx. -/
def opcodeRowF : List OpcodeRecord := [
  ⟨0xF0#8, .beq, .relative, 2, 2, false⟩,
  ⟨0xF1#8, .sbc, .indirectY, 2, 5, true⟩,
  ⟨0xF5#8, .sbc, .zeroPageX, 2, 4, false⟩,
  ⟨0xF6#8, .inc, .zeroPageX, 2, 6, false⟩,
  ⟨0xF8#8, .sed, .implied, 1, 2, false⟩,
  ⟨0xF9#8, .sbc, .absoluteY, 3, 4, true⟩,
  ⟨0xFD#8, .sbc, .absoluteX, 3, 4, true⟩,
  ⟨0xFE#8, .inc, .absoluteX, 3, 7, false⟩]

/-- The OpcodeTable of rule R84: code, mnemonic, mode, length, base cycles, page-crossing penalty. -/
def opcodeTable : List OpcodeRecord :=
  opcodeRow0 ++ opcodeRow1 ++ opcodeRow2 ++ opcodeRow3 ++ opcodeRow4 ++ opcodeRow5 ++ opcodeRow6 ++ opcodeRow7 ++
  opcodeRow8 ++ opcodeRow9 ++ opcodeRowA ++ opcodeRowB ++ opcodeRowC ++ opcodeRowD ++ opcodeRowE ++ opcodeRowF

/-- The row of a high nibble (rule R84: row = high nibble, column = low nibble). -/
def opcodeRow (high : Nat) : List OpcodeRecord :=
  match high with
  | 0x0 => opcodeRow0
  | 0x1 => opcodeRow1
  | 0x2 => opcodeRow2
  | 0x3 => opcodeRow3
  | 0x4 => opcodeRow4
  | 0x5 => opcodeRow5
  | 0x6 => opcodeRow6
  | 0x7 => opcodeRow7
  | 0x8 => opcodeRow8
  | 0x9 => opcodeRow9
  | 0xA => opcodeRowA
  | 0xB => opcodeRowB
  | 0xC => opcodeRowC
  | 0xD => opcodeRowD
  | 0xE => opcodeRowE
  | 0xF => opcodeRowF
  | _ => []

/-- Rule R83: the table is "looked up by exact opcode byte". -/
def opcodeRecord (code : Byte) : Option OpcodeRecord := (opcodeRow (code.toNat / 16)).find? (fun r => r.code == code)

/-- Why bytes do not decode. -/
inductive DecodeError where
  /-- The first byte is not in the OpcodeTable (rule R85). -/
  | unimplementedOpcode (code : Byte)
  /-- There are fewer bytes than the opcode's length (a list of bytes given from outside; a fetch never is; log 12). -/
  | truncated
  deriving DecidableEq, Repr

/-- Rule R84, row 0x: the instruction of a column, with its operand bytes. -/
def decodeRow0 (low : Nat) (b1 b2 : Byte) : Option Instr :=
  match low with
  | 0x0 => some .brk
  | 0x1 => some (.oraIndX b1)
  | 0x5 => some (.oraZp b1)
  | 0x6 => some (.aslZp b1)
  | 0x8 => some .php
  | 0x9 => some (.oraImm b1)
  | 0xA => some .aslAcc
  | 0xD => some (.oraAbs (wordOf b1 b2))
  | 0xE => some (.aslAbs (wordOf b1 b2))
  | _ => none

/-- Rule R84, row 1x: the instruction of a column, with its operand bytes. -/
def decodeRow1 (low : Nat) (b1 b2 : Byte) : Option Instr :=
  match low with
  | 0x0 => some (.bpl b1)
  | 0x1 => some (.oraIndY b1)
  | 0x5 => some (.oraZpX b1)
  | 0x6 => some (.aslZpX b1)
  | 0x8 => some .clc
  | 0x9 => some (.oraAbsY (wordOf b1 b2))
  | 0xD => some (.oraAbsX (wordOf b1 b2))
  | 0xE => some (.aslAbsX (wordOf b1 b2))
  | _ => none

/-- Rule R84, row 2x: the instruction of a column, with its operand bytes. -/
def decodeRow2 (low : Nat) (b1 b2 : Byte) : Option Instr :=
  match low with
  | 0x0 => some (.jsrAbs (wordOf b1 b2))
  | 0x1 => some (.andIndX b1)
  | 0x4 => some (.bitZp b1)
  | 0x5 => some (.andZp b1)
  | 0x6 => some (.rolZp b1)
  | 0x8 => some .plp
  | 0x9 => some (.andImm b1)
  | 0xA => some .rolAcc
  | 0xC => some (.bitAbs (wordOf b1 b2))
  | 0xD => some (.andAbs (wordOf b1 b2))
  | 0xE => some (.rolAbs (wordOf b1 b2))
  | _ => none

/-- Rule R84, row 3x: the instruction of a column, with its operand bytes. -/
def decodeRow3 (low : Nat) (b1 b2 : Byte) : Option Instr :=
  match low with
  | 0x0 => some (.bmi b1)
  | 0x1 => some (.andIndY b1)
  | 0x5 => some (.andZpX b1)
  | 0x6 => some (.rolZpX b1)
  | 0x8 => some .sec
  | 0x9 => some (.andAbsY (wordOf b1 b2))
  | 0xD => some (.andAbsX (wordOf b1 b2))
  | 0xE => some (.rolAbsX (wordOf b1 b2))
  | _ => none

/-- Rule R84, row 4x: the instruction of a column, with its operand bytes. -/
def decodeRow4 (low : Nat) (b1 b2 : Byte) : Option Instr :=
  match low with
  | 0x0 => some .rti
  | 0x1 => some (.eorIndX b1)
  | 0x5 => some (.eorZp b1)
  | 0x6 => some (.lsrZp b1)
  | 0x8 => some .pha
  | 0x9 => some (.eorImm b1)
  | 0xA => some .lsrAcc
  | 0xC => some (.jmpAbs (wordOf b1 b2))
  | 0xD => some (.eorAbs (wordOf b1 b2))
  | 0xE => some (.lsrAbs (wordOf b1 b2))
  | _ => none

/-- Rule R84, row 5x: the instruction of a column, with its operand bytes. -/
def decodeRow5 (low : Nat) (b1 b2 : Byte) : Option Instr :=
  match low with
  | 0x0 => some (.bvc b1)
  | 0x1 => some (.eorIndY b1)
  | 0x5 => some (.eorZpX b1)
  | 0x6 => some (.lsrZpX b1)
  | 0x8 => some .cli
  | 0x9 => some (.eorAbsY (wordOf b1 b2))
  | 0xD => some (.eorAbsX (wordOf b1 b2))
  | 0xE => some (.lsrAbsX (wordOf b1 b2))
  | _ => none

/-- Rule R84, row 6x: the instruction of a column, with its operand bytes. -/
def decodeRow6 (low : Nat) (b1 b2 : Byte) : Option Instr :=
  match low with
  | 0x0 => some .rts
  | 0x1 => some (.adcIndX b1)
  | 0x5 => some (.adcZp b1)
  | 0x6 => some (.rorZp b1)
  | 0x8 => some .pla
  | 0x9 => some (.adcImm b1)
  | 0xA => some .rorAcc
  | 0xC => some (.jmpInd (wordOf b1 b2))
  | 0xD => some (.adcAbs (wordOf b1 b2))
  | 0xE => some (.rorAbs (wordOf b1 b2))
  | _ => none

/-- Rule R84, row 7x: the instruction of a column, with its operand bytes. -/
def decodeRow7 (low : Nat) (b1 b2 : Byte) : Option Instr :=
  match low with
  | 0x0 => some (.bvs b1)
  | 0x1 => some (.adcIndY b1)
  | 0x5 => some (.adcZpX b1)
  | 0x6 => some (.rorZpX b1)
  | 0x8 => some .sei
  | 0x9 => some (.adcAbsY (wordOf b1 b2))
  | 0xD => some (.adcAbsX (wordOf b1 b2))
  | 0xE => some (.rorAbsX (wordOf b1 b2))
  | _ => none

/-- Rule R84, row 8x: the instruction of a column, with its operand bytes. -/
def decodeRow8 (low : Nat) (b1 b2 : Byte) : Option Instr :=
  match low with
  | 0x1 => some (.staIndX b1)
  | 0x4 => some (.styZp b1)
  | 0x5 => some (.staZp b1)
  | 0x6 => some (.stxZp b1)
  | 0x8 => some .dey
  | 0xA => some .txa
  | 0xC => some (.styAbs (wordOf b1 b2))
  | 0xD => some (.staAbs (wordOf b1 b2))
  | 0xE => some (.stxAbs (wordOf b1 b2))
  | _ => none

/-- Rule R84, row 9x: the instruction of a column, with its operand bytes. -/
def decodeRow9 (low : Nat) (b1 b2 : Byte) : Option Instr :=
  match low with
  | 0x0 => some (.bcc b1)
  | 0x1 => some (.staIndY b1)
  | 0x4 => some (.styZpX b1)
  | 0x5 => some (.staZpX b1)
  | 0x6 => some (.stxZpY b1)
  | 0x8 => some .tya
  | 0x9 => some (.staAbsY (wordOf b1 b2))
  | 0xA => some .txs
  | 0xD => some (.staAbsX (wordOf b1 b2))
  | _ => none

/-- Rule R84, row Ax: the instruction of a column, with its operand bytes. -/
def decodeRowA (low : Nat) (b1 b2 : Byte) : Option Instr :=
  match low with
  | 0x0 => some (.ldyImm b1)
  | 0x1 => some (.ldaIndX b1)
  | 0x2 => some (.ldxImm b1)
  | 0x4 => some (.ldyZp b1)
  | 0x5 => some (.ldaZp b1)
  | 0x6 => some (.ldxZp b1)
  | 0x8 => some .tay
  | 0x9 => some (.ldaImm b1)
  | 0xA => some .tax
  | 0xC => some (.ldyAbs (wordOf b1 b2))
  | 0xD => some (.ldaAbs (wordOf b1 b2))
  | 0xE => some (.ldxAbs (wordOf b1 b2))
  | _ => none

/-- Rule R84, row Bx: the instruction of a column, with its operand bytes. -/
def decodeRowB (low : Nat) (b1 b2 : Byte) : Option Instr :=
  match low with
  | 0x0 => some (.bcs b1)
  | 0x1 => some (.ldaIndY b1)
  | 0x4 => some (.ldyZpX b1)
  | 0x5 => some (.ldaZpX b1)
  | 0x6 => some (.ldxZpY b1)
  | 0x8 => some .clv
  | 0x9 => some (.ldaAbsY (wordOf b1 b2))
  | 0xA => some .tsx
  | 0xC => some (.ldyAbsX (wordOf b1 b2))
  | 0xD => some (.ldaAbsX (wordOf b1 b2))
  | 0xE => some (.ldxAbsY (wordOf b1 b2))
  | _ => none

/-- Rule R84, row Cx: the instruction of a column, with its operand bytes. -/
def decodeRowC (low : Nat) (b1 b2 : Byte) : Option Instr :=
  match low with
  | 0x0 => some (.cpyImm b1)
  | 0x1 => some (.cmpIndX b1)
  | 0x4 => some (.cpyZp b1)
  | 0x5 => some (.cmpZp b1)
  | 0x6 => some (.decZp b1)
  | 0x8 => some .iny
  | 0x9 => some (.cmpImm b1)
  | 0xA => some .dex
  | 0xC => some (.cpyAbs (wordOf b1 b2))
  | 0xD => some (.cmpAbs (wordOf b1 b2))
  | 0xE => some (.decAbs (wordOf b1 b2))
  | _ => none

/-- Rule R84, row Dx: the instruction of a column, with its operand bytes. -/
def decodeRowD (low : Nat) (b1 b2 : Byte) : Option Instr :=
  match low with
  | 0x0 => some (.bne b1)
  | 0x1 => some (.cmpIndY b1)
  | 0x5 => some (.cmpZpX b1)
  | 0x6 => some (.decZpX b1)
  | 0x8 => some .cld
  | 0x9 => some (.cmpAbsY (wordOf b1 b2))
  | 0xD => some (.cmpAbsX (wordOf b1 b2))
  | 0xE => some (.decAbsX (wordOf b1 b2))
  | _ => none

/-- Rule R84, row Ex: the instruction of a column, with its operand bytes. -/
def decodeRowE (low : Nat) (b1 b2 : Byte) : Option Instr :=
  match low with
  | 0x0 => some (.cpxImm b1)
  | 0x1 => some (.sbcIndX b1)
  | 0x4 => some (.cpxZp b1)
  | 0x5 => some (.sbcZp b1)
  | 0x6 => some (.incZp b1)
  | 0x8 => some .inx
  | 0x9 => some (.sbcImm b1)
  | 0xA => some .nop
  | 0xC => some (.cpxAbs (wordOf b1 b2))
  | 0xD => some (.sbcAbs (wordOf b1 b2))
  | 0xE => some (.incAbs (wordOf b1 b2))
  | _ => none

/-- Rule R84, row Fx: the instruction of a column, with its operand bytes. -/
def decodeRowF (low : Nat) (b1 b2 : Byte) : Option Instr :=
  match low with
  | 0x0 => some (.beq b1)
  | 0x1 => some (.sbcIndY b1)
  | 0x5 => some (.sbcZpX b1)
  | 0x6 => some (.incZpX b1)
  | 0x8 => some .sed
  | 0x9 => some (.sbcAbsY (wordOf b1 b2))
  | 0xD => some (.sbcAbsX (wordOf b1 b2))
  | 0xE => some (.incAbsX (wordOf b1 b2))
  | _ => none

/-- The instruction of an opcode byte and two operand bytes, of which its layout uses as many as it has (rule R84). -/
def decodeOpcode (code b1 b2 : Byte) : Option Instr :=
  match code.toNat / 16 with
  | 0x0 => decodeRow0 (code.toNat % 16) b1 b2
  | 0x1 => decodeRow1 (code.toNat % 16) b1 b2
  | 0x2 => decodeRow2 (code.toNat % 16) b1 b2
  | 0x3 => decodeRow3 (code.toNat % 16) b1 b2
  | 0x4 => decodeRow4 (code.toNat % 16) b1 b2
  | 0x5 => decodeRow5 (code.toNat % 16) b1 b2
  | 0x6 => decodeRow6 (code.toNat % 16) b1 b2
  | 0x7 => decodeRow7 (code.toNat % 16) b1 b2
  | 0x8 => decodeRow8 (code.toNat % 16) b1 b2
  | 0x9 => decodeRow9 (code.toNat % 16) b1 b2
  | 0xA => decodeRowA (code.toNat % 16) b1 b2
  | 0xB => decodeRowB (code.toNat % 16) b1 b2
  | 0xC => decodeRowC (code.toNat % 16) b1 b2
  | 0xD => decodeRowD (code.toNat % 16) b1 b2
  | 0xE => decodeRowE (code.toNat % 16) b1 b2
  | 0xF => decodeRowF (code.toNat % 16) b1 b2
  | _ => none

/-- The decoder: the first instruction of a list of bytes, with the bytes after it (rules R80, R85, R87). -/
def decode : List Byte → Except DecodeError (Instr × List Byte)
  | [] => .error .truncated
  | code :: rest =>
    match opcodeRecord code with
    | none => .error (.unimplementedOpcode code)
    | some r =>
      if rest.length < r.length - 1 then .error .truncated
      else
        match decodeOpcode code (rest.getD 0 0) (rest.getD 1 0) with
        | some i => .ok (i, rest.drop (r.length - 1))
        | none => .error (.unimplementedOpcode code)

/-- The opcode byte of an instruction (rule R84). -/
def Instr.opcode : Instr → Byte
  | .ldaImm _ => 0xA9
  | .ldaZp _ => 0xA5
  | .ldaZpX _ => 0xB5
  | .ldaAbs _ => 0xAD
  | .ldaAbsX _ => 0xBD
  | .ldaAbsY _ => 0xB9
  | .ldaIndX _ => 0xA1
  | .ldaIndY _ => 0xB1
  | .ldxImm _ => 0xA2
  | .ldxZp _ => 0xA6
  | .ldxZpY _ => 0xB6
  | .ldxAbs _ => 0xAE
  | .ldxAbsY _ => 0xBE
  | .ldyImm _ => 0xA0
  | .ldyZp _ => 0xA4
  | .ldyZpX _ => 0xB4
  | .ldyAbs _ => 0xAC
  | .ldyAbsX _ => 0xBC
  | .staZp _ => 0x85
  | .staZpX _ => 0x95
  | .staAbs _ => 0x8D
  | .staAbsX _ => 0x9D
  | .staAbsY _ => 0x99
  | .staIndX _ => 0x81
  | .staIndY _ => 0x91
  | .stxZp _ => 0x86
  | .stxZpY _ => 0x96
  | .stxAbs _ => 0x8E
  | .styZp _ => 0x84
  | .styZpX _ => 0x94
  | .styAbs _ => 0x8C
  | .tax => 0xAA
  | .tay => 0xA8
  | .txa => 0x8A
  | .tya => 0x98
  | .tsx => 0xBA
  | .txs => 0x9A
  | .adcImm _ => 0x69
  | .adcZp _ => 0x65
  | .adcZpX _ => 0x75
  | .adcAbs _ => 0x6D
  | .adcAbsX _ => 0x7D
  | .adcAbsY _ => 0x79
  | .adcIndX _ => 0x61
  | .adcIndY _ => 0x71
  | .sbcImm _ => 0xE9
  | .sbcZp _ => 0xE5
  | .sbcZpX _ => 0xF5
  | .sbcAbs _ => 0xED
  | .sbcAbsX _ => 0xFD
  | .sbcAbsY _ => 0xF9
  | .sbcIndX _ => 0xE1
  | .sbcIndY _ => 0xF1
  | .cmpImm _ => 0xC9
  | .cmpZp _ => 0xC5
  | .cmpZpX _ => 0xD5
  | .cmpAbs _ => 0xCD
  | .cmpAbsX _ => 0xDD
  | .cmpAbsY _ => 0xD9
  | .cmpIndX _ => 0xC1
  | .cmpIndY _ => 0xD1
  | .cpxImm _ => 0xE0
  | .cpxZp _ => 0xE4
  | .cpxAbs _ => 0xEC
  | .cpyImm _ => 0xC0
  | .cpyZp _ => 0xC4
  | .cpyAbs _ => 0xCC
  | .andImm _ => 0x29
  | .andZp _ => 0x25
  | .andZpX _ => 0x35
  | .andAbs _ => 0x2D
  | .andAbsX _ => 0x3D
  | .andAbsY _ => 0x39
  | .andIndX _ => 0x21
  | .andIndY _ => 0x31
  | .oraImm _ => 0x09
  | .oraZp _ => 0x05
  | .oraZpX _ => 0x15
  | .oraAbs _ => 0x0D
  | .oraAbsX _ => 0x1D
  | .oraAbsY _ => 0x19
  | .oraIndX _ => 0x01
  | .oraIndY _ => 0x11
  | .eorImm _ => 0x49
  | .eorZp _ => 0x45
  | .eorZpX _ => 0x55
  | .eorAbs _ => 0x4D
  | .eorAbsX _ => 0x5D
  | .eorAbsY _ => 0x59
  | .eorIndX _ => 0x41
  | .eorIndY _ => 0x51
  | .bitZp _ => 0x24
  | .bitAbs _ => 0x2C
  | .aslAcc => 0x0A
  | .aslZp _ => 0x06
  | .aslZpX _ => 0x16
  | .aslAbs _ => 0x0E
  | .aslAbsX _ => 0x1E
  | .lsrAcc => 0x4A
  | .lsrZp _ => 0x46
  | .lsrZpX _ => 0x56
  | .lsrAbs _ => 0x4E
  | .lsrAbsX _ => 0x5E
  | .rolAcc => 0x2A
  | .rolZp _ => 0x26
  | .rolZpX _ => 0x36
  | .rolAbs _ => 0x2E
  | .rolAbsX _ => 0x3E
  | .rorAcc => 0x6A
  | .rorZp _ => 0x66
  | .rorZpX _ => 0x76
  | .rorAbs _ => 0x6E
  | .rorAbsX _ => 0x7E
  | .incZp _ => 0xE6
  | .incZpX _ => 0xF6
  | .incAbs _ => 0xEE
  | .incAbsX _ => 0xFE
  | .decZp _ => 0xC6
  | .decZpX _ => 0xD6
  | .decAbs _ => 0xCE
  | .decAbsX _ => 0xDE
  | .inx => 0xE8
  | .iny => 0xC8
  | .dex => 0xCA
  | .dey => 0x88
  | .bpl _ => 0x10
  | .bmi _ => 0x30
  | .bvc _ => 0x50
  | .bvs _ => 0x70
  | .bcc _ => 0x90
  | .bcs _ => 0xB0
  | .bne _ => 0xD0
  | .beq _ => 0xF0
  | .pha => 0x48
  | .php => 0x08
  | .pla => 0x68
  | .plp => 0x28
  | .jsrAbs _ => 0x20
  | .rts => 0x60
  | .rti => 0x40
  | .jmpAbs _ => 0x4C
  | .jmpInd _ => 0x6C
  | .clc => 0x18
  | .sec => 0x38
  | .cli => 0x58
  | .sei => 0x78
  | .cld => 0xD8
  | .sed => 0xF8
  | .clv => 0xB8
  | .nop => 0xEA
  | .brk => 0x00

/-- The encoder: the opcode byte and the operand bytes (rules R80, R84). -/
def encode (i : Instr) : List Byte := i.opcode :: i.operand.bytes

/-- The bytes of a number of `nbits` bits whose bit 0 is the least significant bit of the first byte, three of them; the bits
above `nbits` are 0. -/
def tableBytes (nbits w : Nat) : List Byte :=
  let v := w % 2 ^ nbits
  [BitVec.ofNat 8 v, BitVec.ofNat 8 (v / 256), BitVec.ofNat 8 (v / 65536)]

/-- The instruction the decoder reads from a word numbered as spec/opcode_table.json numbers it. -/
def decodeTableWord (nbits w : Nat) : Option Instr :=
  match decode (tableBytes nbits w) with
  | .ok (i, _) => some i
  | .error _ => none

/-- The instruction of an assembler line, where it has one (rules R88, R89): the row of its mnemonic and mode, with the
line's operand bytes. -/
def assemble (l : AsmLine) : Option Instr :=
  match opcodeTable.find? (fun r => r.mnemonic == l.mnemonic && r.mode == l.operand.mode) with
  | some r => decodeOpcode r.code (l.operand.bytes.getD 0 0) (l.operand.bytes.getD 1 0)
  | none => none

/-- Rule R88: the displacement byte of a branch to `target`, `b1 = target - next`, refused out of range. -/
def branchDisplacement (next target : Word) : Option Byte :=
  if branchReaches next target then some (loByte (target - next)) else none

end Sys2Proof
end

