-- ==== Sys2Proof/Machine/Flags.lean ====
section
/-! DEFINITION. The status register P and every flag computation of the spec, as functions of bytes: the layout of P
(spec/10_state.md rule R26), SetZN (R123), the ALU (R150), compares (R153), BIT (R163), shifts and rotates (R170 to R173),
and the copies of P that the stack holds (R31, R201, R203, R237). -/

namespace Sys2Proof.Machine

/-- The eight flags of P, bit 0 first (rule R26). -/
inductive Flag where
  | c | z | i | d | b | u | v | n
  deriving DecidableEq, Repr

/-- The masks of rule R26. -/
def Flag.mask : Flag → Byte
  | .c => 0x01
  | .z => 0x02
  | .i => 0x04
  | .d => 0x08
  | .b => 0x10
  | .u => 0x20
  | .v => 0x40
  | .n => 0x80

/-- `P.f`, one bit of P (rule R7). -/
def getFlag (f : Flag) (p : Byte) : Bool := p &&& f.mask != 0

/-- `P.f <- value`, every other bit as it was (rule R7). -/
def putFlag (f : Flag) (value : Bool) (p : Byte) : Byte := if value then p ||| f.mask else p &&& ~~~f.mask

/-- Bit `k` of a byte, `v[k]` of rule R6. -/
def bitOf (k : Nat) (v : Byte) : Bool := v.getLsbD k

/-- `SetZN(v)` on P (rule R123). -/
def setZN (v p : Byte) : Byte := putFlag .n (bitOf 7 v) (putFlag .z (v == 0) p)

/-- What the ALU's addition gives (rule R150). -/
structure AddResult where
  result : Byte
  carry : Bool
  overflow : Bool
  deriving DecidableEq, Repr

/-- `AddCore(a, m, cin)` of rule R150: the exact sum on naturals, then split. -/
def addCore (a m : Byte) (cin : Bool) : AddResult :=
  let sum := a.toNat + m.toNat + cin.toNat
  let r := BitVec.ofNat 8 sum
  { result := r
    carry := decide (0xFF < sum)
    overflow := ~~~(a ^^^ m) &&& (a ^^^ r) &&& 0x80 != 0 }

/-- P after ADC or SBC (rules R151, R152): C, V, then SetZN of the result. -/
def addFlags (r : AddResult) (p : Byte) : Byte := setZN r.result (putFlag .v r.overflow (putFlag .c r.carry p))

/-- P after CMP, CPX or CPY of register value `r` with `m` (rules R153 to R155): C from the unsigned comparison, SetZN of
the 8-bit difference. -/
def compareFlags (r m p : Byte) : Byte := setZN (sub8 r m) (putFlag .c (decide (m.toNat ≤ r.toNat)) p)

/-- P after BIT (rule R163): Z from `A & m`, V and N from bits 6 and 7 of `m`. -/
def bitFlags (a m p : Byte) : Byte :=
  putFlag .n (bitOf 7 m) (putFlag .v (bitOf 6 m) (putFlag .z (a &&& m == 0) p))

/-- ASL (rule R170): the result and the bit shifted out. -/
def aslOf (v : Byte) : Byte × Bool := (v <<< 1, bitOf 7 v)

/-- LSR (rule R171): the result and the bit shifted out. -/
def lsrOf (v : Byte) : Byte × Bool := (v >>> 1, bitOf 0 v)

/-- ROL (rule R172): `cin` comes in at bit 0, bit 7 goes out. -/
def rolOf (cin : Bool) (v : Byte) : Byte × Bool := (v <<< 1 ||| (if cin then 0x01 else 0x00), bitOf 7 v)

/-- ROR (rule R173): `cin` comes in at bit 7, bit 0 goes out. -/
def rorOf (cin : Bool) (v : Byte) : Byte × Bool := (v >>> 1 ||| (if cin then 0x80 else 0x00), bitOf 0 v)

/-- P after a shift or rotate (rules R170 to R173): C is the bit shifted out, then SetZN of the result. -/
def shiftFlags (r : Byte × Bool) (p : Byte) : Byte := setZN r.1 (putFlag .c r.2 p)

/-- The copy of P that PHP pushes: B and U set (rule R201). -/
def pushedByPhp (p : Byte) : Byte := p ||| 0x30

/-- The copy of P that interrupt entry pushes: B clear, U set (rule R237). -/
def pushedByInterrupt (p : Byte) : Byte := p &&& 0xEF ||| 0x20

/-- P as PLP and RTI load it from a pulled byte: B clear, U set (rules R203, R206). -/
def pulledStatus (v : Byte) : Byte := v &&& 0xEF ||| 0x20

end Sys2Proof.Machine
end

