-- ==== Sys2Proof/Config.lean ====
section
/-! DEFINITION. The implementation parameters of spec/00_scope.md rule R5: the ones the spec fixes, by value, and the ones
it leaves OPEN, as constants with no body (free values: nothing can evaluate them, so a claim holds for every choice). -/

namespace Sys2Proof

/-- The three delegates of rule R60. -/
inductive DelegateId where
  | ppu | io | cart
  deriving DecidableEq, Repr

/-- What can change a delegate (rules R60, R69): a bus read with a side effect or a bus write at one of its target addresses, or
the host changing its state between two steps; `tag` tells one such change from another. DESIGN CHOICE, safe: log 4, log 15. -/
inductive DelegateEvent where
  | read (target : Word)
  | write (target : Word) (value : Byte)
  | host (tag : Nat)
  deriving DecidableEq, Repr

namespace Config

/-- `STACK_BASE` of rule R5. -/
abbrev stackBase : Word := 0x0100#16
/-- `SP_RESET` of rule R5. -/
abbrev spReset : Byte := 0xFD#8
/-- P after reset (rules R5, R41): I set, all others clear. -/
abbrev pReset : Byte := 0x04#8
/-- `VEC_NMI` of rule R5. -/
abbrev vecNmi : Word := 0xFFFA#16
/-- `VEC_RESET` of rule R5. -/
abbrev vecReset : Word := 0xFFFC#16
/-- `VEC_IRQ` of rule R5. -/
abbrev vecIrq : Word := 0xFFFE#16
/-- `RAM_SIZE` of rule R5, in bytes. -/
abbrev ramSize : Nat := 2048

/-- `RAM_INIT` of rule R5, OPEN: the byte a RAM cell holds that nothing has written (rule R69, decision D9: "A model must not
fix it; a proof must hold for every value"). A free value, safe: log 3. -/
opaque ramInit : Nat → Byte

/-- `D.read` of rule R60, OPEN: the byte delegate `d` answers to a read at a target address, after the events that can have
changed it (newest first). A free value, safe: log 4. -/
opaque delegateRead : DelegateId → List DelegateEvent → Word → Byte

/-- `D.peek` of rule R60, OPEN: the byte delegate `d` shows to an observer at a target address. A free value, safe: log 6. -/
opaque delegatePeek : DelegateId → List DelegateEvent → Word → Byte

/-- `D.read_has_side_effect` of rule R60, OPEN (the set `SIDE_EFFECT_READ` of rule R5): true for every target whose read can
change the delegate, which `recordRead` of Machine/Delegate.lean makes so. A free value, safe: log 6. -/
opaque readHasSideEffect : DelegateId → Word → Bool

end Config
end Sys2Proof
end

