-- ==== Sys2Proof/Machine/Delegate.lean ====
section
/-! DEFINITION. What a delegate keeps of a bus read (spec/20_memory.md rule R60). -/

namespace Sys2Proof.Machine

/-- The events of delegate `d` after a bus read at target `t` (rule R60): a read where `read_has_side_effect` is false can change
neither the delegate's state nor a later answer, so it leaves no trace; any other read is seen. -/
def recordRead (d : DelegateId) (t : Word) (events : List DelegateEvent) : List DelegateEvent :=
  if Config.readHasSideEffect d t then .read t :: events else events

end Sys2Proof.Machine
end

