-- ==== Sys2Proof/Machine/State.lean ====
section
/-! DEFINITION. The machine's state as plain data (spec/10_state.md rules R20 to R42, spec/20_memory.md rules R52, R60), the
reasons a step can stop, and the state after reset (spec/70_reset_and_hazards.md rules R260 to R262). -/

namespace Sys2Proof.Machine

/-- Bytes by address or index: addresses strictly rising, an address that is not listed holds no recorded byte
(`Memory.wf` in Machine/Ops.lean; log 3). -/
abbrev Memory := List Host.Cell

/-- The run state of rule R35. -/
inductive RunState where
  | running | halted
  deriving DecidableEq, Repr

/-- The fatal condition of rules R36, R230: the complete list of the machine's faults. -/
inductive Fault where
  /-- Raised by the decode of a byte that is not in the OpcodeTable (rules R103, R231), and answered again by every later
  step (rule R232); `addr` is the address of the byte. Safe: the spec's own fault. -/
  | unimplementedOpcode (code : Byte) (addr : Word)
  deriving DecidableEq, Repr

/-- Why a call has no meaning. -/
inductive Refusal where
  /-- An instruction with no meaning in this model. No arm of `exec` answers it. Safe: nothing is claimed. -/
  | notModelled (mnemonic : String)
  /-- A step, a preset, a read of the registers or a trace before the first reset (rules R100, R101, R251). Safe: the
  spec's own refusal. -/
  | notInitialised
  deriving DecidableEq, Repr

/-- The state of a delegate (rule R60): the contents the host has declared (`rom` answers reads and ignores writes, `ram` is
plain storage; log 5) and the events that can have changed the delegate, newest first, from which its other answers come (log 4). -/
structure DelegateState where
  rom : Memory
  ram : Memory
  events : List DelegateEvent
  deriving DecidableEq, Repr

/-- Every piece of state of the spec, in the order of rule R41. -/
structure State where
  /-- `A` (R21). -/
  a : Byte
  /-- `X` (R22). -/
  x : Byte
  /-- `Y` (R23). -/
  y : Byte
  /-- `P` (R26): the flags C Z I D B U V N at bits 0 to 7. -/
  p : Byte
  /-- `SP` (R24). -/
  sp : Byte
  /-- `PC` (R25). -/
  pc : Word
  /-- `run` (R35). -/
  run : RunState
  /-- `fault` (R36). -/
  fault : Option Fault
  /-- `nmi_pending` (R37). -/
  nmiPending : Bool
  /-- `irq_line` (R37). -/
  irqLine : Bool
  /-- `initialised` (R38). -/
  initialised : Bool
  /-- `cycles` (R39). -/
  cycles : Nat
  /-- The written cells of `ram[0..2047]` (R52), by index. -/
  ram : Memory
  /-- The state of the delegate `PPU` (R60). -/
  ppu : DelegateState
  /-- The state of the delegate `IO` (R60). -/
  io : DelegateState
  /-- The state of the delegate `CART` (R60). -/
  cart : DelegateState
  deriving DecidableEq, Repr

/-- What a step or a host operation answers. -/
abbrev StepResult := Host.Outcome State Fault Refusal

/-- A delegate that has seen nothing, with no declared contents (rule R60's initial state). -/
def DelegateState.fresh : DelegateState := ⟨[], [], []⟩

/-- A newly constructed session (rule R41, second column). The registers and PC are unwritten: the zeros stand for no value
and nothing reads them while `initialised` is false. DESIGN CHOICE, safe: log 7. -/
def State.construct : State where
  a := 0
  x := 0
  y := 0
  p := 0
  sp := 0
  pc := 0
  run := .running
  fault := none
  nmiPending := false
  irqLine := false
  initialised := false
  cycles := 0
  ram := []
  ppu := .fresh
  io := .fresh
  cart := .fresh

/-- The machine right after the first reset of a newly constructed session (rule R41, third column; rule R260): PC is the
reset vector, low byte from 0xFFFC and then high byte from 0xFFFD, as CART answers (rule R261), so it is a free value, and
CART is as these two reads leave it (rule R262; log 8). `hostReset_construct` says that it is what `hostReset` leaves. -/
def State.reset : State where
  a := 0x00
  x := 0x00
  y := 0x00
  p := Config.pReset
  sp := Config.spReset
  pc := Config.delegateRead .cart (recordRead .cart 0xFFFC []) 0xFFFD ++ Config.delegateRead .cart [] 0xFFFC
  run := .running
  fault := none
  nmiPending := false
  irqLine := false
  initialised := true
  cycles := 0
  ram := []
  ppu := .fresh
  io := .fresh
  cart := ⟨[], [], recordRead .cart 0xFFFD (recordRead .cart 0xFFFC [])⟩

end Sys2Proof.Machine
end

