-- ==== Sys2Proof/Machine/Ops.lean ====
section
/-! DEFINITION. The shared operations over memory and registers: the bus and its routing (spec/20_memory.md rules R51 to R66),
the registers, push and pull (spec/40_execution_and_addressing.md rules R121, R122), interrupt entry and the return from it
(spec/60_exceptions.md rule R237, spec/48_stack_call_return.md rule R206). -/

namespace Sys2Proof.Machine

/-! ### Memories -/

/-- The byte recorded at key `k`, if one is. -/
def Memory.get? : Memory → Nat → Option Byte
  | [], _ => none
  | (a, b) :: m, k => if k = a then some b else Memory.get? m k

/-- Record byte `v` at key `k`, keeping the keys rising. -/
def Memory.set : Memory → Nat → Byte → Memory
  | [], k, v => [(k, v)]
  | (a, b) :: m, k, v =>
    if k < a then (k, v) :: (a, b) :: m
    else if k = a then (k, v) :: m
    else (a, b) :: Memory.set m k v

/-- The canonical form: keys strictly rising, each at least `lo` and below `hi`. An unlisted key holds no recorded byte, so
no entry can equal what an unlisted key reads as (log 3). -/
def Memory.wf (hi : Nat) : Nat → Memory → Bool
  | _, [] => true
  | lo, (a, _) :: m => decide (lo ≤ a) && decide (a < hi) && Memory.wf hi (a + 1) m

/-! ### Registers: one setter each, the only places that write them -/

def State.setA (v : Byte) (s : State) : State := { s with a := v }
def State.setX (v : Byte) (s : State) : State := { s with x := v }
def State.setY (v : Byte) (s : State) : State := { s with y := v }
def State.setP (v : Byte) (s : State) : State := { s with p := v }
def State.setSP (v : Byte) (s : State) : State := { s with sp := v }
def State.setPC (v : Word) (s : State) : State := { s with pc := v }
def State.setRun (v : RunState) (s : State) : State := { s with run := v }
def State.setFault (v : Option Fault) (s : State) : State := { s with fault := v }
def State.setNmiPending (v : Bool) (s : State) : State := { s with nmiPending := v }
def State.setIrqLine (v : Bool) (s : State) : State := { s with irqLine := v }
def State.setInitialised (v : Bool) (s : State) : State := { s with initialised := v }
/-- Count `n` more cycles (rule R270). -/
def State.addCycles (n : Nat) (s : State) : State := { s with cycles := s.cycles + n }
def State.setRam (m : Memory) (s : State) : State := { s with ram := m }

/-- The state of a delegate (rule R60). -/
def State.delegate (d : DelegateId) (s : State) : DelegateState :=
  match d with
  | .ppu => s.ppu
  | .io => s.io
  | .cart => s.cart

def State.setDelegate (d : DelegateId) (v : DelegateState) (s : State) : State :=
  match d with
  | .ppu => { s with ppu := v }
  | .io => { s with io := v }
  | .cart => { s with cart := v }

/-- One flag of the machine's P. -/
def State.flag (f : Flag) (s : State) : Bool := getFlag f s.p

/-- `P.f <- value`. -/
def State.putFlag (f : Flag) (value : Bool) (s : State) : State := s.setP (Machine.putFlag f value s.p)

/-- `SetZN(v)` (rule R123). -/
def State.setZN (v : Byte) (s : State) : State := s.setP (Machine.setZN v s.p)

/-! ### The bus -/

/-- Where an access goes (rule R51): a RAM cell, or a delegate with the target address passed on. -/
inductive Route where
  | ram (index : Nat)
  | delegate (d : DelegateId) (target : Word)
  deriving DecidableEq, Repr

/-- `owner(addr)` of rule R51 with the masks of rules R52 to R55. -/
def route (a : Word) : Route :=
  if a ≤ 0x1FFF#16 then .ram (a &&& 0x07FF#16).toNat
  else if a ≤ 0x3FFF#16 then .delegate .ppu (0x2000#16 ||| (a &&& 0x0007#16))
  else if a ≤ 0x7FFF#16 then .delegate .io a
  else .delegate .cart a

/-- The byte in a RAM cell: the one most recently written, or `RAM_INIT` (rules R52, R69). -/
def State.ramByte (index : Nat) (s : State) : Byte :=
  match Memory.get? s.ram index with
  | some v => v
  | none => Config.ramInit index

/-- The byte the host has declared a delegate to hold at a target address, if any (log 5). -/
def DelegateState.declared? (t : Word) (ds : DelegateState) : Option Byte :=
  match Memory.get? ds.ram t.toNat with
  | some v => some v
  | none => Memory.get? ds.rom t.toNat

/-- The byte delegate `d` answers to a bus read (rules R56, R60). -/
def DelegateState.readByte (d : DelegateId) (t : Word) (ds : DelegateState) : Byte :=
  match ds.declared? t with
  | some v => v
  | none => Config.delegateRead d ds.events t

/-- The byte delegate `d` shows to `Peek` (rules R60, R66). -/
def DelegateState.peekByte (d : DelegateId) (t : Word) (ds : DelegateState) : Byte :=
  match ds.declared? t with
  | some v => v
  | none => Config.delegatePeek d ds.events t

/-- Delegate `d` after one bus read (rules R56, R60): its contents stay, and it has seen the read where that can change it. -/
def DelegateState.afterRead (d : DelegateId) (t : Word) (ds : DelegateState) : DelegateState :=
  { ds with events := recordRead d t ds.events }

/-- A delegate after one bus write (rule R57): it has seen it; declared plain storage takes the byte. -/
def DelegateState.afterWrite (t : Word) (v : Byte) (ds : DelegateState) : DelegateState :=
  { ds with
    ram := (match Memory.get? ds.ram t.toNat with
      | some _ => Memory.set ds.ram t.toNat v
      | none => ds.ram)
    events := .write t v :: ds.events }

/-- The byte a bus read at `a` answers (rule R56). -/
def State.busByte (a : Word) (s : State) : Byte :=
  match route a with
  | .ram k => s.ramByte k
  | .delegate d t => (s.delegate d).readByte d t

/-- The state after a bus read at `a` (rule R56): RAM has no side effect, a delegate answers the read once. -/
def State.afterRead (a : Word) (s : State) : State :=
  match route a with
  | .ram _ => s
  | .delegate d t => s.setDelegate d ((s.delegate d).afterRead d t)

/-- `MemRead(a, 1)` (rule R56). -/
def memRead (a : Word) (s : State) : Byte × State := (s.busByte a, s.afterRead a)

/-- `MemWrite(a, 1, v)` (rule R57). -/
def memWrite (a : Word) (v : Byte) (s : State) : State :=
  match route a with
  | .ram k => s.setRam (Memory.set s.ram k v)
  | .delegate d t => s.setDelegate d ((s.delegate d).afterWrite t v)

/-- `read16`, `MemRead(a, 2)` (rule R58): low byte at `a`, then high byte at `a + 1`, wrapping. -/
def memRead16 (a : Word) (s : State) : Word × State :=
  let (lo, s1) := memRead a s
  let (hi, s2) := memRead (add16 a 1) s1
  (wordOf lo hi, s2)

/-- `write16`, `MemWrite(a, 2, v)` (rule R59): low byte first. -/
def memWrite16 (a v : Word) (s : State) : State := memWrite (add16 a 1) (hiByte v) (memWrite a (loByte v) s)

/-- `Peek(a)` (rule R66): what an observer sees, changing nothing. -/
def State.peek (a : Word) (s : State) : Byte :=
  match route a with
  | .ram k => s.ramByte k
  | .delegate d t => (s.delegate d).peekByte d t

/-! ### The stack -/

/-- The stack address of an SP value, `0x0100 | SP` (rule R24). -/
def stackAddress (sp : Byte) : Word := Config.stackBase ||| zext sp

/-- `Push(v)` (rule R121): write at the stack address, then decrement. -/
def push (v : Byte) (s : State) : State := (memWrite (stackAddress s.sp) v s).setSP (sub8 s.sp 1)

/-- `Pull()` (rule R122): increment, then read. -/
def pull (s : State) : Byte × State :=
  let s1 := s.setSP (add8 s.sp 1)
  memRead (stackAddress s1.sp) s1

/-- Push a 16-bit value, high byte first (rules R204, R237). -/
def pushWord (w : Word) (s : State) : State := push (loByte w) (push (hiByte w) s)

/-- Pull a 16-bit value, low byte first (rules R205, R206). -/
def pullWord (s : State) : Word × State :=
  let (lo, s1) := pull s
  let (hi, s2) := pull s1
  (wordOf lo hi, s2)

/-! ### Exceptions: entry and return -/

/-- The two interrupts (rules R233, R234). -/
inductive InterruptKind where
  | nmi | irq
  deriving DecidableEq, Repr

/-- The vector of an interrupt (rules R67, R237). -/
def InterruptKind.vector : InterruptKind → Word
  | .nmi => Config.vecNmi
  | .irq => Config.vecIrq

/-- `InterruptEntry(kind)` (rule R237): push PC and P, set I, drop the NMI latch for an NMI, load PC from the vector,
7 cycles. -/
def interruptEntry (kind : InterruptKind) (s : State) : State :=
  let s1 := push (pushedByInterrupt s.p) (pushWord s.pc s)
  let s2 := s1.putFlag .i true
  let s3 := match kind with
    | .nmi => s2.setNmiPending false
    | .irq => s2
  let (target, s4) := memRead16 kind.vector s3
  (s4.setPC target).addCycles 7

/-- The return from an interrupt (rules R206, R239): pull P with B clear and U set, then PC, adding nothing. -/
def returnFromInterrupt (s : State) : State :=
  let (v, s1) := pull s
  let s2 := s1.setP (pulledStatus v)
  let (target, s3) := pullWord s2
  s3.setPC target

/-- `raise UnimplementedOpcode(code)` for the opcode byte at `addr` (rules R103, R231): PC goes back to the byte, and the mark
records it. -/
def raiseUnimplemented (code : Byte) (addr : Word) (s : State) : State :=
  (s.setPC addr).setFault (some (.unimplementedOpcode code addr))

end Sys2Proof.Machine
end

