-- ==== Sys2Proof/Machine/HostOps.lean ====
section
/-! DEFINITION. The host's operations, all made between two steps (spec/60_exceptions.md rules R251, R252;
spec/70_reset_and_hazards.md rules R260 to R263; spec/20_memory.md rules R69, R74). -/

namespace Sys2Proof.Machine

/-- `reset()` of rule R260, with the vector read of rule R261. RAM, `fault`, `irq_line` and `cycles` stay (rule R262). -/
def hostReset (s : State) : State :=
  let s1 := ((((((s.setA 0x00).setX 0x00).setY 0x00).setP Config.pReset).setSP Config.spReset).setRun .running)
  let s2 := (s1.setNmiPending false).setInitialised true
  let (target, s3) := memRead16 Config.vecReset s2
  s3.setPC target

/-- `cancel()` of rule R252. -/
def hostCancel (s : State) : State := s.setRun .halted

/-- `assert_nmi()` of rule R233. -/
def hostAssertNmi (s : State) : State := s.setNmiPending true

/-- `set_irq(level)` of rule R234. -/
def hostSetIrq (level : Bool) (s : State) : State := s.setIrqLine level

/-- `load(base, bytes)`, `HostLoad` of rule R74: bus writes at `base`, `base + 1`, ..., modulo 2^16. -/
def hostLoad (base : Word) : List Byte → State → State
  | [], s => s
  | b :: bs, s => hostLoad (add16 base 1) bs (memWrite base b s)

/-- The 8-bit registers a preset can name (rule R251). -/
inductive PresetRegister where
  | a | x | y | sp | p
  deriving DecidableEq, Repr

/-- `preset(r, v)` of rule R251: the value is stored as given, B and U of P included; refused before the first reset. -/
def hostPreset (r : PresetRegister) (v : Byte) (s : State) : StepResult :=
  if s.initialised then
    match r with
    | .a => .next (s.setA v)
    | .x => .next (s.setX v)
    | .y => .next (s.setY v)
    | .sp => .next (s.setSP v)
    | .p => .next (s.setP v)
  else .refused .notInitialised

/-- `preset(PC, v)` of rule R251. -/
def hostPresetPC (v : Word) (s : State) : StepResult :=
  if s.initialised then .next (s.setPC v) else .refused .notInitialised

/-- What `read_state()` of rule R251 returns. -/
structure StateView where
  a : Byte
  x : Byte
  y : Byte
  sp : Byte
  p : Byte
  pc : Word
  run : RunState
  fault : Option Fault
  cycles : Nat
  deriving DecidableEq, Repr

/-- `read_state()` of rule R251: refused before the first reset. -/
def hostReadState (s : State) : Except Refusal StateView :=
  if s.initialised then .ok ⟨s.a, s.x, s.y, s.sp, s.p, s.pc, s.run, s.fault, s.cycles⟩ else .error .notInitialised

/-- `peek(a)` of rule R251: always allowed. -/
def hostPeek (a : Word) (s : State) : Byte := s.peek a

/-- The host changes a delegate's state between two steps (rule R69). DESIGN CHOICE, safe: log 15. -/
def hostDeviceActs (d : DelegateId) (tag : Nat) (s : State) : State :=
  let ds := s.delegate d
  s.setDelegate d { ds with events := .host tag :: ds.events }

/-- The host supplies a byte that a delegate holds for good, as ROM contents (rule R74: "initialises the `CART` delegate's state
directly"); an address in RAM is not a delegate's and nothing changes. DESIGN CHOICE: log 5. -/
def hostDeclareRom (a : Word) (v : Byte) (s : State) : State :=
  match route a with
  | .ram _ => s
  | .delegate d t =>
    let ds := s.delegate d
    s.setDelegate d { ds with rom := Memory.set ds.rom t.toNat v }

/-- The host declares that a delegate holds plain storage at an address, with its first byte. DESIGN CHOICE: log 5. -/
def hostDeclareRam (a : Word) (v : Byte) (s : State) : State :=
  match route a with
  | .ram _ => s
  | .delegate d t =>
    let ds := s.delegate d
    s.setDelegate d { ds with ram := Memory.set ds.ram t.toNat v }

/-- The host operations that can change the machine, as data (rule R251). -/
inductive HostOp where
  | reset
  | cancel
  | assertNmi
  | setIrq (level : Bool)
  | load (base : Word) (bytes : List Byte)
  | preset (r : PresetRegister) (v : Byte)
  | presetPC (v : Word)
  | deviceActs (d : DelegateId) (tag : Nat)
  | declareRom (a : Word) (v : Byte)
  | declareRam (a : Word) (v : Byte)
  deriving DecidableEq, Repr

/-- One host operation. -/
def hostDo (op : HostOp) (s : State) : StepResult :=
  match op with
  | .reset => .next (hostReset s)
  | .cancel => .next (hostCancel s)
  | .assertNmi => .next (hostAssertNmi s)
  | .setIrq level => .next (hostSetIrq level s)
  | .load base bytes => .next (hostLoad base bytes s)
  | .preset r v => hostPreset r v s
  | .presetPC v => hostPresetPC v s
  | .deviceActs d tag => .next (hostDeviceActs d tag s)
  | .declareRom a v => .next (hostDeclareRom a v s)
  | .declareRam a v => .next (hostDeclareRam a v s)

/-- Where `withFetchWord` loads its instruction, as the scenarios of spec/95_test_vectors.md do (log 9). -/
def loadAddress : Word := 0x0600#16

/-- Load bytes at `loadAddress` and set all that the next step's fetch of them takes: PC there, the machine initialised,
running, with no fault and no interrupt request (rule R251's load, reset, preset; log 9). -/
def startAt (bytes : List Byte) (s : State) : State :=
  let s1 := (hostLoad loadAddress bytes s).setPC loadAddress
  ((((s1.setInitialised true).setFault none).setRun .running).setNmiPending false).setIrqLine false

end Sys2Proof.Machine
end

