-- ==== Sys2Proof/Machine/Operands.lean ====
section
/-! DEFINITION. The addressing-mode resolver and the operand helpers (spec/40_execution_and_addressing.md rules R106 to R120,
R124), cycle accounting (spec/70_reset_and_hazards.md rules R269, R270), and the shapes the instruction rules share. Every
function here runs after the operand fetch, so PC is `next`, the address after the instruction (rule R101). -/

namespace Sys2Proof.Machine

/-- The addresses of an indirect mode's pointer bytes, low byte first; the second wraps within its page (rules R115, R116,
R117). -/
def pointerAddresses (o : Operand) (s : State) : Option (Word × Word) :=
  match o with
  | .indirect ptr => some (ptr, ptr &&& 0xFF00#16 ||| zext (add8 (loByte ptr) 1))
  | .indirectX z => some (zext (add8 z s.x), zext (add8 (add8 z s.x) 1))
  | .indirectY z => some (zext z, zext (add8 z 1))
  | _ => none

/-- What an address is indexed from, or compared with for a page crossing (rules R113, R114, R117, R124); `ptr` is the
pointer's value where the mode has one. -/
def baseAddress (o : Operand) (ptr : Word) (s : State) : Word :=
  match o with
  | .implied | .accumulator => s.pc
  | .immediate _ => add16 s.pc 0xFFFF
  | .zeroPage z => zext z
  | .zeroPageX z => zext (add8 z s.x)
  | .zeroPageY z => zext (add8 z s.y)
  | .absolute w | .absoluteX w | .absoluteY w => w
  | .indirect _ | .indirectX _ | .indirectY _ => ptr
  | .relative _ => s.pc

/-- The effective address (rules R108 to R118). Implied and Accumulator have none (rules R106, R107): the value for them is
used by nothing. -/
def effectiveAddress (o : Operand) (ptr : Word) (s : State) : Word :=
  match o with
  | .absoluteX _ => add16 (baseAddress o ptr s) (zext s.x)
  | .absoluteY _ | .indirectY _ => add16 (baseAddress o ptr s) (zext s.y)
  | .relative d => add16 (baseAddress o ptr s) (sext d)
  | _ => baseAddress o ptr s

/-- The resolver's answer: the effective address, and whether it lies on another page than its base. -/
structure Resolved where
  ea : Word
  crossed : Bool
  deriving DecidableEq, Repr

/-- `crossed(mode)` of rule R124, for a mode that indexes; false for the others, whose address is its own base. -/
def pageCrossed (base ea : Word) : Bool := base &&& 0xFF00#16 != ea &&& 0xFF00#16

/-- The pointer's value, by two bus reads, low byte first, where the mode has one (rules R75, R115 to R117). -/
def readPointer (o : Operand) (s : State) : Word × State :=
  match pointerAddresses o s with
  | none => (0, s)
  | some (lowAt, highAt) =>
    let (lo, s1) := memRead lowAt s
    let (hi, s2) := memRead highAt s1
    (wordOf lo hi, s2)

/-- `Resolve(mode, b1, b2, next)` (rule R101). -/
def resolve (o : Operand) (s : State) : Resolved × State :=
  let (ptr, s1) := readPointer o s
  let ea := effectiveAddress o ptr s1
  (⟨ea, pageCrossed (baseAddress o ptr s1) ea⟩, s1)

/-- `Operand()` and the read of `Modify` (rules R107, R119, R120): the immediate byte or A without a bus transaction, else
one bus read at the effective address. -/
def readOperand (o : Operand) (ea : Word) (s : State) : Byte × State :=
  match o with
  | .immediate v => (v, s)
  | .accumulator => (s.a, s)
  | _ => memRead ea s

/-- `Store(v)` and the write of `Modify` (rule R120): A in Accumulator mode, else one bus write at the effective address. -/
def writeOperand (o : Operand) (ea : Word) (v : Byte) (s : State) : State :=
  match o with
  | .accumulator => s.setA v
  | _ => memWrite ea v s

/-- `Cost(op, ea, taken)` of rule R270 for the table row of `code` (a byte with no row costs nothing and is never executed;
log 17). -/
def cost (code : Byte) (crossed taken : Bool) : Nat :=
  match opcodeRecord code with
  | none => 0
  | some r =>
    r.baseCycles
      + (if r.pageCrossPenalty && crossed then 1 else 0)
      + (if r.mode == .relative && taken then 1 + (if crossed then 1 else 0) else 0)

/-! ### The shapes of instructions: `code` is the opcode byte, by which the cycles are counted -/

/-- An instruction with no effective address. -/
def runImplied (code : Byte) (f : State → State) (s : State) : StepResult :=
  .next ((f s).addCycles (cost code false false))

/-- A read instruction (rule R119): `f` takes the operand. -/
def runRead (code : Byte) (o : Operand) (f : Byte → State → State) (s : State) : StepResult :=
  let (r, s1) := resolve o s
  let (m, s2) := readOperand o r.ea s1
  .next ((f m s2).addCycles (cost code r.crossed false))

/-- A store (rule R120): no read of the address. -/
def runStore (code : Byte) (o : Operand) (v : State → Byte) (s : State) : StepResult :=
  let (r, s1) := resolve o s
  .next ((writeOperand o r.ea (v s1) s1).addCycles (cost code r.crossed false))

/-- A read-modify-write (rule R120): `f` takes the old value and P and gives the new value and P; one read, then one write. -/
def runModify (code : Byte) (o : Operand) (f : Byte → Byte → Byte × Byte) (s : State) : StepResult :=
  let (r, s1) := resolve o s
  let (v, s2) := readOperand o r.ea s1
  let (w, p) := f v s2.p
  .next (((writeOperand o r.ea w s2).setP p).addCycles (cost code r.crossed false))

/-- A jump or call: `f` takes the target (rules R204, R210, R211). -/
def runJump (code : Byte) (o : Operand) (f : Word → State → State) (s : State) : StepResult :=
  let (r, s1) := resolve o s
  .next ((f r.ea s1).addCycles (cost code false false))

/-- `Branch(cond)` (rule R190): `taken` is the condition on P at the start of the instruction. -/
def runBranch (code d : Byte) (taken : Bool) (s : State) : StepResult :=
  let (r, s1) := resolve (.relative d) s
  let s2 := if taken then s1.setPC r.ea else s1
  .next (s2.addCycles (cost code r.crossed taken))

end Sys2Proof.Machine
end

