-- ==== Sys2Proof/Machine/Arithmetic.lean ====
section
/-! DEFINITION. Arithmetic and compare instructions (spec/43_arithmetic_compare.md rules R150 to R155). -/

namespace Sys2Proof.Machine

/-- ADC's effect (rule R151): `(r, c, v) <- AddCore(A, m, P.C); A <- r; P.C <- c; P.V <- v; SetZN(r)`; the Decimal flag is not read (rule R150). -/
def adc (m : Byte) (s : State) : State :=
  let r := addCore s.a m (s.flag .c)
  (s.setA r.result).setP (addFlags r s.p)

/-- ADC, Immediate, 0x69 (rules R151, R108). -/
def execAdcImm (v : Byte) (s : State) : StepResult := runRead 0x69 (.immediate v) adc s
/-- ADC, ZeroPage, 0x65 (rules R151, R109). -/
def execAdcZp (z : Byte) (s : State) : StepResult := runRead 0x65 (.zeroPage z) adc s
/-- ADC, ZeroPage_X, 0x75 (rules R151, R110). -/
def execAdcZpX (z : Byte) (s : State) : StepResult := runRead 0x75 (.zeroPageX z) adc s
/-- ADC, Absolute, 0x6D (rules R151, R112). -/
def execAdcAbs (w : Word) (s : State) : StepResult := runRead 0x6D (.absolute w) adc s
/-- ADC, Absolute_X, 0x7D (rules R151, R113). -/
def execAdcAbsX (w : Word) (s : State) : StepResult := runRead 0x7D (.absoluteX w) adc s
/-- ADC, Absolute_Y, 0x79 (rules R151, R114). -/
def execAdcAbsY (w : Word) (s : State) : StepResult := runRead 0x79 (.absoluteY w) adc s
/-- ADC, Indirect_X, 0x61 (rules R151, R116). -/
def execAdcIndX (z : Byte) (s : State) : StepResult := runRead 0x61 (.indirectX z) adc s
/-- ADC, Indirect_Y, 0x71 (rules R151, R117). -/
def execAdcIndY (z : Byte) (s : State) : StepResult := runRead 0x71 (.indirectY z) adc s

/-- SBC's effect (rule R152): ADC's with the complement of `m`; the carry is not-borrow. -/
def sbc (m : Byte) (s : State) : State :=
  let r := addCore s.a (m ^^^ 0xFF) (s.flag .c)
  (s.setA r.result).setP (addFlags r s.p)

/-- SBC, Immediate, 0xE9 (rules R152, R108). -/
def execSbcImm (v : Byte) (s : State) : StepResult := runRead 0xE9 (.immediate v) sbc s
/-- SBC, ZeroPage, 0xE5 (rules R152, R109). -/
def execSbcZp (z : Byte) (s : State) : StepResult := runRead 0xE5 (.zeroPage z) sbc s
/-- SBC, ZeroPage_X, 0xF5 (rules R152, R110). -/
def execSbcZpX (z : Byte) (s : State) : StepResult := runRead 0xF5 (.zeroPageX z) sbc s
/-- SBC, Absolute, 0xED (rules R152, R112). -/
def execSbcAbs (w : Word) (s : State) : StepResult := runRead 0xED (.absolute w) sbc s
/-- SBC, Absolute_X, 0xFD (rules R152, R113). -/
def execSbcAbsX (w : Word) (s : State) : StepResult := runRead 0xFD (.absoluteX w) sbc s
/-- SBC, Absolute_Y, 0xF9 (rules R152, R114). -/
def execSbcAbsY (w : Word) (s : State) : StepResult := runRead 0xF9 (.absoluteY w) sbc s
/-- SBC, Indirect_X, 0xE1 (rules R152, R116). -/
def execSbcIndX (z : Byte) (s : State) : StepResult := runRead 0xE1 (.indirectX z) sbc s
/-- SBC, Indirect_Y, 0xF1 (rules R152, R117). -/
def execSbcIndY (z : Byte) (s : State) : StepResult := runRead 0xF1 (.indirectY z) sbc s

/-- CMP's effect (rule R153): C, Z and N from A against `m`; no register is written. -/
def cmpA (m : Byte) (s : State) : State := s.setP (compareFlags s.a m s.p)

/-- CMP, Immediate, 0xC9 (rules R153, R108). -/
def execCmpImm (v : Byte) (s : State) : StepResult := runRead 0xC9 (.immediate v) cmpA s
/-- CMP, ZeroPage, 0xC5 (rules R153, R109). -/
def execCmpZp (z : Byte) (s : State) : StepResult := runRead 0xC5 (.zeroPage z) cmpA s
/-- CMP, ZeroPage_X, 0xD5 (rules R153, R110). -/
def execCmpZpX (z : Byte) (s : State) : StepResult := runRead 0xD5 (.zeroPageX z) cmpA s
/-- CMP, Absolute, 0xCD (rules R153, R112). -/
def execCmpAbs (w : Word) (s : State) : StepResult := runRead 0xCD (.absolute w) cmpA s
/-- CMP, Absolute_X, 0xDD (rules R153, R113). -/
def execCmpAbsX (w : Word) (s : State) : StepResult := runRead 0xDD (.absoluteX w) cmpA s
/-- CMP, Absolute_Y, 0xD9 (rules R153, R114). -/
def execCmpAbsY (w : Word) (s : State) : StepResult := runRead 0xD9 (.absoluteY w) cmpA s
/-- CMP, Indirect_X, 0xC1 (rules R153, R116). -/
def execCmpIndX (z : Byte) (s : State) : StepResult := runRead 0xC1 (.indirectX z) cmpA s
/-- CMP, Indirect_Y, 0xD1 (rules R153, R117). -/
def execCmpIndY (z : Byte) (s : State) : StepResult := runRead 0xD1 (.indirectY z) cmpA s

/-- CPX's effect (rule R154): C, Z and N from X against `m`; no register is written. -/
def cmpX (m : Byte) (s : State) : State := s.setP (compareFlags s.x m s.p)

/-- CPX, Immediate, 0xE0 (rules R154, R108). -/
def execCpxImm (v : Byte) (s : State) : StepResult := runRead 0xE0 (.immediate v) cmpX s
/-- CPX, ZeroPage, 0xE4 (rules R154, R109). -/
def execCpxZp (z : Byte) (s : State) : StepResult := runRead 0xE4 (.zeroPage z) cmpX s
/-- CPX, Absolute, 0xEC (rules R154, R112). -/
def execCpxAbs (w : Word) (s : State) : StepResult := runRead 0xEC (.absolute w) cmpX s

/-- CPY's effect (rule R155): C, Z and N from Y against `m`; no register is written. -/
def cmpY (m : Byte) (s : State) : State := s.setP (compareFlags s.y m s.p)

/-- CPY, Immediate, 0xC0 (rules R155, R108). -/
def execCpyImm (v : Byte) (s : State) : StepResult := runRead 0xC0 (.immediate v) cmpY s
/-- CPY, ZeroPage, 0xC4 (rules R155, R109). -/
def execCpyZp (z : Byte) (s : State) : StepResult := runRead 0xC4 (.zeroPage z) cmpY s
/-- CPY, Absolute, 0xCC (rules R155, R112). -/
def execCpyAbs (w : Word) (s : State) : StepResult := runRead 0xCC (.absolute w) cmpY s

end Sys2Proof.Machine
end

