-- ==== Sys2Proof/Machine/Branch.lean ====
section
/-! DEFINITION. Conditional branch instructions (spec/47_branch.md rules R190 to R198): no branch writes a flag. -/

namespace Sys2Proof.Machine

/-- BPL, Relative, 0x10 (rules R191, R118). -/
def execBpl (d : Byte) (s : State) : StepResult := runBranch 0x10 d (!s.flag .n) s
/-- BMI, Relative, 0x30 (rules R192, R118). -/
def execBmi (d : Byte) (s : State) : StepResult := runBranch 0x30 d (s.flag .n) s
/-- BVC, Relative, 0x50 (rules R193, R118). -/
def execBvc (d : Byte) (s : State) : StepResult := runBranch 0x50 d (!s.flag .v) s
/-- BVS, Relative, 0x70 (rules R194, R118). -/
def execBvs (d : Byte) (s : State) : StepResult := runBranch 0x70 d (s.flag .v) s
/-- BCC, Relative, 0x90 (rules R195, R118). -/
def execBcc (d : Byte) (s : State) : StepResult := runBranch 0x90 d (!s.flag .c) s
/-- BCS, Relative, 0xB0 (rules R196, R118). -/
def execBcs (d : Byte) (s : State) : StepResult := runBranch 0xB0 d (s.flag .c) s
/-- BNE, Relative, 0xD0 (rules R197, R118). -/
def execBne (d : Byte) (s : State) : StepResult := runBranch 0xD0 d (!s.flag .z) s
/-- BEQ, Relative, 0xF0 (rules R198, R118). -/
def execBeq (d : Byte) (s : State) : StepResult := runBranch 0xF0 d (s.flag .z) s

end Sys2Proof.Machine
end

