-- ==== Sys2Proof/Machine/IncDec.lean ====
section
/-! DEFINITION. Increment and decrement instructions (spec/46_inc_dec.md rules R180 to R185). -/

namespace Sys2Proof.Machine

/-- INC on a value and P (rule R180): C and V are not touched. -/
def inc (v p : Byte) : Byte × Byte := (add8 v 1, setZN (add8 v 1) p)

/-- INC, ZeroPage, 0xE6 (rules R180, R109). -/
def execIncZp (z : Byte) (s : State) : StepResult := runModify 0xE6 (.zeroPage z) inc s
/-- INC, ZeroPage_X, 0xF6 (rules R180, R110). -/
def execIncZpX (z : Byte) (s : State) : StepResult := runModify 0xF6 (.zeroPageX z) inc s
/-- INC, Absolute, 0xEE (rules R180, R112). -/
def execIncAbs (w : Word) (s : State) : StepResult := runModify 0xEE (.absolute w) inc s
/-- INC, Absolute_X, 0xFE (rules R180, R113). -/
def execIncAbsX (w : Word) (s : State) : StepResult := runModify 0xFE (.absoluteX w) inc s

/-- DEC on a value and P (rule R181). -/
def dec (v p : Byte) : Byte × Byte := (sub8 v 1, setZN (sub8 v 1) p)

/-- DEC, ZeroPage, 0xC6 (rules R181, R109). -/
def execDecZp (z : Byte) (s : State) : StepResult := runModify 0xC6 (.zeroPage z) dec s
/-- DEC, ZeroPage_X, 0xD6 (rules R181, R110). -/
def execDecZpX (z : Byte) (s : State) : StepResult := runModify 0xD6 (.zeroPageX z) dec s
/-- DEC, Absolute, 0xCE (rules R181, R112). -/
def execDecAbs (w : Word) (s : State) : StepResult := runModify 0xCE (.absolute w) dec s
/-- DEC, Absolute_X, 0xDE (rules R181, R113). -/
def execDecAbsX (w : Word) (s : State) : StepResult := runModify 0xDE (.absoluteX w) dec s

/-- INX's effect (rule R182): `X <- add8(X, 1); SetZN(X)`. -/
def inx (s : State) : State := (s.setX (add8 s.x 1)).setZN (add8 s.x 1)

/-- INX, Implied, 0xE8 (rules R182, R106). -/
def execInx (s : State) : StepResult := runImplied 0xE8 inx s

/-- INY's effect (rule R183): `Y <- add8(Y, 1); SetZN(Y)`. -/
def iny (s : State) : State := (s.setY (add8 s.y 1)).setZN (add8 s.y 1)

/-- INY, Implied, 0xC8 (rules R183, R106). -/
def execIny (s : State) : StepResult := runImplied 0xC8 iny s

/-- DEX's effect (rule R184): `X <- sub8(X, 1); SetZN(X)`. -/
def dex (s : State) : State := (s.setX (sub8 s.x 1)).setZN (sub8 s.x 1)

/-- DEX, Implied, 0xCA (rules R184, R106). -/
def execDex (s : State) : StepResult := runImplied 0xCA dex s

/-- DEY's effect (rule R185): `Y <- sub8(Y, 1); SetZN(Y)`. -/
def dey (s : State) : State := (s.setY (sub8 s.y 1)).setZN (sub8 s.y 1)

/-- DEY, Implied, 0x88 (rules R185, R106). -/
def execDey (s : State) : StepResult := runImplied 0x88 dey s

end Sys2Proof.Machine
end

