-- ==== Sys2Proof/Machine/LoadStore.lean ====
section
/-! DEFINITION. Load and store instructions (spec/41_load_store.md rules R130 to R135). -/

namespace Sys2Proof.Machine

/-- LDA's effect (rule R130): `A <- v; SetZN(v)`. -/
def lda (v : Byte) (s : State) : State := (s.setA v).setZN v

/-- LDA, Immediate, 0xA9 (rules R130, R108). -/
def execLdaImm (v : Byte) (s : State) : StepResult := runRead 0xA9 (.immediate v) lda s
/-- LDA, ZeroPage, 0xA5 (rules R130, R109). -/
def execLdaZp (z : Byte) (s : State) : StepResult := runRead 0xA5 (.zeroPage z) lda s
/-- LDA, ZeroPage_X, 0xB5 (rules R130, R110). -/
def execLdaZpX (z : Byte) (s : State) : StepResult := runRead 0xB5 (.zeroPageX z) lda s
/-- LDA, Absolute, 0xAD (rules R130, R112). -/
def execLdaAbs (w : Word) (s : State) : StepResult := runRead 0xAD (.absolute w) lda s
/-- LDA, Absolute_X, 0xBD (rules R130, R113). -/
def execLdaAbsX (w : Word) (s : State) : StepResult := runRead 0xBD (.absoluteX w) lda s
/-- LDA, Absolute_Y, 0xB9 (rules R130, R114). -/
def execLdaAbsY (w : Word) (s : State) : StepResult := runRead 0xB9 (.absoluteY w) lda s
/-- LDA, Indirect_X, 0xA1 (rules R130, R116). -/
def execLdaIndX (z : Byte) (s : State) : StepResult := runRead 0xA1 (.indirectX z) lda s
/-- LDA, Indirect_Y, 0xB1 (rules R130, R117). -/
def execLdaIndY (z : Byte) (s : State) : StepResult := runRead 0xB1 (.indirectY z) lda s

/-- LDX's effect (rule R131): `X <- v; SetZN(v)`. -/
def ldx (v : Byte) (s : State) : State := (s.setX v).setZN v

/-- LDX, Immediate, 0xA2 (rules R131, R108). -/
def execLdxImm (v : Byte) (s : State) : StepResult := runRead 0xA2 (.immediate v) ldx s
/-- LDX, ZeroPage, 0xA6 (rules R131, R109). -/
def execLdxZp (z : Byte) (s : State) : StepResult := runRead 0xA6 (.zeroPage z) ldx s
/-- LDX, ZeroPage_Y, 0xB6 (rules R131, R111). -/
def execLdxZpY (z : Byte) (s : State) : StepResult := runRead 0xB6 (.zeroPageY z) ldx s
/-- LDX, Absolute, 0xAE (rules R131, R112). -/
def execLdxAbs (w : Word) (s : State) : StepResult := runRead 0xAE (.absolute w) ldx s
/-- LDX, Absolute_Y, 0xBE (rules R131, R114). -/
def execLdxAbsY (w : Word) (s : State) : StepResult := runRead 0xBE (.absoluteY w) ldx s

/-- LDY's effect (rule R132): `Y <- v; SetZN(v)`. -/
def ldy (v : Byte) (s : State) : State := (s.setY v).setZN v

/-- LDY, Immediate, 0xA0 (rules R132, R108). -/
def execLdyImm (v : Byte) (s : State) : StepResult := runRead 0xA0 (.immediate v) ldy s
/-- LDY, ZeroPage, 0xA4 (rules R132, R109). -/
def execLdyZp (z : Byte) (s : State) : StepResult := runRead 0xA4 (.zeroPage z) ldy s
/-- LDY, ZeroPage_X, 0xB4 (rules R132, R110). -/
def execLdyZpX (z : Byte) (s : State) : StepResult := runRead 0xB4 (.zeroPageX z) ldy s
/-- LDY, Absolute, 0xAC (rules R132, R112). -/
def execLdyAbs (w : Word) (s : State) : StepResult := runRead 0xAC (.absolute w) ldy s
/-- LDY, Absolute_X, 0xBC (rules R132, R113). -/
def execLdyAbsX (w : Word) (s : State) : StepResult := runRead 0xBC (.absoluteX w) ldy s

/-- STA, ZeroPage, 0x85 (rules R133, R109). -/
def execStaZp (z : Byte) (s : State) : StepResult := runStore 0x85 (.zeroPage z) State.a s
/-- STA, ZeroPage_X, 0x95 (rules R133, R110). -/
def execStaZpX (z : Byte) (s : State) : StepResult := runStore 0x95 (.zeroPageX z) State.a s
/-- STA, Absolute, 0x8D (rules R133, R112). -/
def execStaAbs (w : Word) (s : State) : StepResult := runStore 0x8D (.absolute w) State.a s
/-- STA, Absolute_X, 0x9D (rules R133, R113). -/
def execStaAbsX (w : Word) (s : State) : StepResult := runStore 0x9D (.absoluteX w) State.a s
/-- STA, Absolute_Y, 0x99 (rules R133, R114). -/
def execStaAbsY (w : Word) (s : State) : StepResult := runStore 0x99 (.absoluteY w) State.a s
/-- STA, Indirect_X, 0x81 (rules R133, R116). -/
def execStaIndX (z : Byte) (s : State) : StepResult := runStore 0x81 (.indirectX z) State.a s
/-- STA, Indirect_Y, 0x91 (rules R133, R117). -/
def execStaIndY (z : Byte) (s : State) : StepResult := runStore 0x91 (.indirectY z) State.a s

/-- STX, ZeroPage, 0x86 (rules R134, R109). -/
def execStxZp (z : Byte) (s : State) : StepResult := runStore 0x86 (.zeroPage z) State.x s
/-- STX, ZeroPage_Y, 0x96 (rules R134, R111). -/
def execStxZpY (z : Byte) (s : State) : StepResult := runStore 0x96 (.zeroPageY z) State.x s
/-- STX, Absolute, 0x8E (rules R134, R112). -/
def execStxAbs (w : Word) (s : State) : StepResult := runStore 0x8E (.absolute w) State.x s

/-- STY, ZeroPage, 0x84 (rules R135, R109). -/
def execStyZp (z : Byte) (s : State) : StepResult := runStore 0x84 (.zeroPage z) State.y s
/-- STY, ZeroPage_X, 0x94 (rules R135, R110). -/
def execStyZpX (z : Byte) (s : State) : StepResult := runStore 0x94 (.zeroPageX z) State.y s
/-- STY, Absolute, 0x8C (rules R135, R112). -/
def execStyAbs (w : Word) (s : State) : StepResult := runStore 0x8C (.absolute w) State.y s

end Sys2Proof.Machine
end

