-- ==== Sys2Proof/Machine/Logical.lean ====
section
/-! DEFINITION. Logical instructions (spec/44_logical.md rules R160 to R163). -/

namespace Sys2Proof.Machine

/-- AND's effect (rule R160): `A <- A & m; SetZN(A)`. -/
def andA (m : Byte) (s : State) : State := (s.setA (s.a &&& m)).setZN (s.a &&& m)

/-- AND, Immediate, 0x29 (rules R160, R108). -/
def execAndImm (v : Byte) (s : State) : StepResult := runRead 0x29 (.immediate v) andA s
/-- AND, ZeroPage, 0x25 (rules R160, R109). -/
def execAndZp (z : Byte) (s : State) : StepResult := runRead 0x25 (.zeroPage z) andA s
/-- AND, ZeroPage_X, 0x35 (rules R160, R110). -/
def execAndZpX (z : Byte) (s : State) : StepResult := runRead 0x35 (.zeroPageX z) andA s
/-- AND, Absolute, 0x2D (rules R160, R112). -/
def execAndAbs (w : Word) (s : State) : StepResult := runRead 0x2D (.absolute w) andA s
/-- AND, Absolute_X, 0x3D (rules R160, R113). -/
def execAndAbsX (w : Word) (s : State) : StepResult := runRead 0x3D (.absoluteX w) andA s
/-- AND, Absolute_Y, 0x39 (rules R160, R114). -/
def execAndAbsY (w : Word) (s : State) : StepResult := runRead 0x39 (.absoluteY w) andA s
/-- AND, Indirect_X, 0x21 (rules R160, R116). -/
def execAndIndX (z : Byte) (s : State) : StepResult := runRead 0x21 (.indirectX z) andA s
/-- AND, Indirect_Y, 0x31 (rules R160, R117). -/
def execAndIndY (z : Byte) (s : State) : StepResult := runRead 0x31 (.indirectY z) andA s

/-- ORA's effect (rule R161): `A <- A | m; SetZN(A)`. -/
def ora (m : Byte) (s : State) : State := (s.setA (s.a ||| m)).setZN (s.a ||| m)

/-- ORA, Immediate, 0x09 (rules R161, R108). -/
def execOraImm (v : Byte) (s : State) : StepResult := runRead 0x09 (.immediate v) ora s
/-- ORA, ZeroPage, 0x05 (rules R161, R109). -/
def execOraZp (z : Byte) (s : State) : StepResult := runRead 0x05 (.zeroPage z) ora s
/-- ORA, ZeroPage_X, 0x15 (rules R161, R110). -/
def execOraZpX (z : Byte) (s : State) : StepResult := runRead 0x15 (.zeroPageX z) ora s
/-- ORA, Absolute, 0x0D (rules R161, R112). -/
def execOraAbs (w : Word) (s : State) : StepResult := runRead 0x0D (.absolute w) ora s
/-- ORA, Absolute_X, 0x1D (rules R161, R113). -/
def execOraAbsX (w : Word) (s : State) : StepResult := runRead 0x1D (.absoluteX w) ora s
/-- ORA, Absolute_Y, 0x19 (rules R161, R114). -/
def execOraAbsY (w : Word) (s : State) : StepResult := runRead 0x19 (.absoluteY w) ora s
/-- ORA, Indirect_X, 0x01 (rules R161, R116). -/
def execOraIndX (z : Byte) (s : State) : StepResult := runRead 0x01 (.indirectX z) ora s
/-- ORA, Indirect_Y, 0x11 (rules R161, R117). -/
def execOraIndY (z : Byte) (s : State) : StepResult := runRead 0x11 (.indirectY z) ora s

/-- EOR's effect (rule R162): `A <- A ^ m; SetZN(A)`. -/
def eor (m : Byte) (s : State) : State := (s.setA (s.a ^^^ m)).setZN (s.a ^^^ m)

/-- EOR, Immediate, 0x49 (rules R162, R108). -/
def execEorImm (v : Byte) (s : State) : StepResult := runRead 0x49 (.immediate v) eor s
/-- EOR, ZeroPage, 0x45 (rules R162, R109). -/
def execEorZp (z : Byte) (s : State) : StepResult := runRead 0x45 (.zeroPage z) eor s
/-- EOR, ZeroPage_X, 0x55 (rules R162, R110). -/
def execEorZpX (z : Byte) (s : State) : StepResult := runRead 0x55 (.zeroPageX z) eor s
/-- EOR, Absolute, 0x4D (rules R162, R112). -/
def execEorAbs (w : Word) (s : State) : StepResult := runRead 0x4D (.absolute w) eor s
/-- EOR, Absolute_X, 0x5D (rules R162, R113). -/
def execEorAbsX (w : Word) (s : State) : StepResult := runRead 0x5D (.absoluteX w) eor s
/-- EOR, Absolute_Y, 0x59 (rules R162, R114). -/
def execEorAbsY (w : Word) (s : State) : StepResult := runRead 0x59 (.absoluteY w) eor s
/-- EOR, Indirect_X, 0x41 (rules R162, R116). -/
def execEorIndX (z : Byte) (s : State) : StepResult := runRead 0x41 (.indirectX z) eor s
/-- EOR, Indirect_Y, 0x51 (rules R162, R117). -/
def execEorIndY (z : Byte) (s : State) : StepResult := runRead 0x51 (.indirectY z) eor s

/-- BIT's effect (rule R163): Z from `A & m`, V and N from `m`; no register is written. -/
def bitTest (m : Byte) (s : State) : State := s.setP (bitFlags s.a m s.p)

/-- BIT, ZeroPage, 0x24 (rules R163, R109). -/
def execBitZp (z : Byte) (s : State) : StepResult := runRead 0x24 (.zeroPage z) bitTest s
/-- BIT, Absolute, 0x2C (rules R163, R112). -/
def execBitAbs (w : Word) (s : State) : StepResult := runRead 0x2C (.absolute w) bitTest s

end Sys2Proof.Machine
end

