-- ==== Sys2Proof/Machine/Misc.lean ====
section
/-! DEFINITION. Jump, flag, no-operation and halt instructions (spec/49_jump_flag_misc.md rules R210 to R220). -/

namespace Sys2Proof.Machine

/-- JMP, Absolute, 0x4C (rules R210, R112). -/
def execJmpAbs (w : Word) (s : State) : StepResult := runJump 0x4C (.absolute w) State.setPC s
/-- JMP, Indirect, 0x6C (rules R211, R115). -/
def execJmpInd (w : Word) (s : State) : StepResult := runJump 0x6C (.indirect w) State.setPC s
/-- CLC, Implied, 0x18 (rules R212, R106). -/
def execClc (s : State) : StepResult := runImplied 0x18 (State.putFlag .c false) s
/-- SEC, Implied, 0x38 (rules R213, R106). -/
def execSec (s : State) : StepResult := runImplied 0x38 (State.putFlag .c true) s
/-- CLI, Implied, 0x58 (rules R214, R106). -/
def execCli (s : State) : StepResult := runImplied 0x58 (State.putFlag .i false) s
/-- SEI, Implied, 0x78 (rules R215, R106). -/
def execSei (s : State) : StepResult := runImplied 0x78 (State.putFlag .i true) s
/-- CLD, Implied, 0xD8 (rules R216, R106). -/
def execCld (s : State) : StepResult := runImplied 0xD8 (State.putFlag .d false) s
/-- SED, Implied, 0xF8 (rules R217, R106). -/
def execSed (s : State) : StepResult := runImplied 0xF8 (State.putFlag .d true) s
/-- CLV, Implied, 0xB8 (rules R218, R106). -/
def execClv (s : State) : StepResult := runImplied 0xB8 (State.putFlag .v false) s

/-- NOP, Implied, 0xEA (rules R219, R106). -/
def execNop (s : State) : StepResult := runImplied 0xEA id s

/-- The halt's effect (rule R220): `run <- Halted`; nothing is pushed. -/
def halt (s : State) : State := s.setRun .halted

/-- BRK, Implied, 0x00 (rules R220, R106). -/
def execBrk (s : State) : StepResult := runImplied 0x00 halt s

end Sys2Proof.Machine
end

