-- ==== Sys2Proof/Machine/Shift.lean ====
section
/-! DEFINITION. Shift and rotate instructions (spec/45_shift_rotate.md rules R170 to R173). -/

namespace Sys2Proof.Machine

/-- ASL on a value and P (rule R170). -/
def asl (v p : Byte) : Byte × Byte := ((aslOf v).1, shiftFlags (aslOf v) p)

/-- ASL, Accumulator, 0x0A (rules R170, R107). -/
def execAslAcc (s : State) : StepResult := runModify 0x0A .accumulator asl s
/-- ASL, ZeroPage, 0x06 (rules R170, R109). -/
def execAslZp (z : Byte) (s : State) : StepResult := runModify 0x06 (.zeroPage z) asl s
/-- ASL, ZeroPage_X, 0x16 (rules R170, R110). -/
def execAslZpX (z : Byte) (s : State) : StepResult := runModify 0x16 (.zeroPageX z) asl s
/-- ASL, Absolute, 0x0E (rules R170, R112). -/
def execAslAbs (w : Word) (s : State) : StepResult := runModify 0x0E (.absolute w) asl s
/-- ASL, Absolute_X, 0x1E (rules R170, R113). -/
def execAslAbsX (w : Word) (s : State) : StepResult := runModify 0x1E (.absoluteX w) asl s

/-- LSR on a value and P (rule R171). -/
def lsr (v p : Byte) : Byte × Byte := ((lsrOf v).1, shiftFlags (lsrOf v) p)

/-- LSR, Accumulator, 0x4A (rules R171, R107). -/
def execLsrAcc (s : State) : StepResult := runModify 0x4A .accumulator lsr s
/-- LSR, ZeroPage, 0x46 (rules R171, R109). -/
def execLsrZp (z : Byte) (s : State) : StepResult := runModify 0x46 (.zeroPage z) lsr s
/-- LSR, ZeroPage_X, 0x56 (rules R171, R110). -/
def execLsrZpX (z : Byte) (s : State) : StepResult := runModify 0x56 (.zeroPageX z) lsr s
/-- LSR, Absolute, 0x4E (rules R171, R112). -/
def execLsrAbs (w : Word) (s : State) : StepResult := runModify 0x4E (.absolute w) lsr s
/-- LSR, Absolute_X, 0x5E (rules R171, R113). -/
def execLsrAbsX (w : Word) (s : State) : StepResult := runModify 0x5E (.absoluteX w) lsr s

/-- ROL on a value and P (rule R172). -/
def rol (v p : Byte) : Byte × Byte := ((rolOf (getFlag .c p) v).1, shiftFlags (rolOf (getFlag .c p) v) p)

/-- ROL, Accumulator, 0x2A (rules R172, R107). -/
def execRolAcc (s : State) : StepResult := runModify 0x2A .accumulator rol s
/-- ROL, ZeroPage, 0x26 (rules R172, R109). -/
def execRolZp (z : Byte) (s : State) : StepResult := runModify 0x26 (.zeroPage z) rol s
/-- ROL, ZeroPage_X, 0x36 (rules R172, R110). -/
def execRolZpX (z : Byte) (s : State) : StepResult := runModify 0x36 (.zeroPageX z) rol s
/-- ROL, Absolute, 0x2E (rules R172, R112). -/
def execRolAbs (w : Word) (s : State) : StepResult := runModify 0x2E (.absolute w) rol s
/-- ROL, Absolute_X, 0x3E (rules R172, R113). -/
def execRolAbsX (w : Word) (s : State) : StepResult := runModify 0x3E (.absoluteX w) rol s

/-- ROR on a value and P (rule R173). -/
def ror (v p : Byte) : Byte × Byte := ((rorOf (getFlag .c p) v).1, shiftFlags (rorOf (getFlag .c p) v) p)

/-- ROR, Accumulator, 0x6A (rules R173, R107). -/
def execRorAcc (s : State) : StepResult := runModify 0x6A .accumulator ror s
/-- ROR, ZeroPage, 0x66 (rules R173, R109). -/
def execRorZp (z : Byte) (s : State) : StepResult := runModify 0x66 (.zeroPage z) ror s
/-- ROR, ZeroPage_X, 0x76 (rules R173, R110). -/
def execRorZpX (z : Byte) (s : State) : StepResult := runModify 0x76 (.zeroPageX z) ror s
/-- ROR, Absolute, 0x6E (rules R173, R112). -/
def execRorAbs (w : Word) (s : State) : StepResult := runModify 0x6E (.absolute w) ror s
/-- ROR, Absolute_X, 0x7E (rules R173, R113). -/
def execRorAbsX (w : Word) (s : State) : StepResult := runModify 0x7E (.absoluteX w) ror s

end Sys2Proof.Machine
end

