-- ==== Sys2Proof/Machine/Stack.lean ====
section
/-! DEFINITION. Stack, call and return instructions (spec/48_stack_call_return.md rules R200 to R206). -/

namespace Sys2Proof.Machine

/-- PHA's effect (rule R200): `Push(A)`. -/
def pha (s : State) : State := push s.a s

/-- PHA, Implied, 0x48 (rules R200, R106). -/
def execPha (s : State) : StepResult := runImplied 0x48 pha s

/-- PHP's effect (rule R201): `Push(P | 0x30)`; P is unchanged. -/
def php (s : State) : State := push (pushedByPhp s.p) s

/-- PHP, Implied, 0x08 (rules R201, R106). -/
def execPhp (s : State) : StepResult := runImplied 0x08 php s

/-- PLA's effect (rule R202): `A <- Pull(); SetZN(A)`. -/
def pla (s : State) : State :=
  let (v, s1) := pull s
  (s1.setA v).setZN v

/-- PLA, Implied, 0x68 (rules R202, R106). -/
def execPla (s : State) : StepResult := runImplied 0x68 pla s

/-- PLP's effect (rule R203): `P <- (Pull() & 0xEF) | 0x20`. -/
def plp (s : State) : State :=
  let (v, s1) := pull s
  s1.setP (pulledStatus v)

/-- PLP, Implied, 0x28 (rules R203, R106). -/
def execPlp (s : State) : StepResult := runImplied 0x28 plp s

/-- JSR's effect (rule R204): push `next - 1`, high byte first, and go to `ea`. -/
def jsr (ea : Word) (s : State) : State := (pushWord (add16 s.pc 0xFFFF) s).setPC ea

/-- JSR, Absolute, 0x20 (rules R204, R112). -/
def execJsrAbs (w : Word) (s : State) : StepResult := runJump 0x20 (.absolute w) jsr s

/-- RTS's effect (rule R205): pull the address, low byte first, and add 1. -/
def rts (s : State) : State :=
  let (target, s1) := pullWord s
  s1.setPC (add16 target 1)

/-- RTS, Implied, 0x60 (rules R205, R106). -/
def execRts (s : State) : StepResult := runImplied 0x60 rts s

/-- RTI, Implied, 0x40 (rules R206, R106). -/
def execRti (s : State) : StepResult := runImplied 0x40 returnFromInterrupt s

end Sys2Proof.Machine
end

