-- ==== Sys2Proof/Machine/Transfer.lean ====
section
/-! DEFINITION. Register transfer instructions (spec/42_transfer.md rules R140 to R145). -/

namespace Sys2Proof.Machine

/-- TAX's effect (rule R140): `X <- A; SetZN(X)`. -/
def tax (s : State) : State := (s.setX s.a).setZN s.a

/-- TAX, Implied, 0xAA (rules R140, R106). -/
def execTax (s : State) : StepResult := runImplied 0xAA tax s

/-- TAY's effect (rule R141): `Y <- A; SetZN(Y)`. -/
def tay (s : State) : State := (s.setY s.a).setZN s.a

/-- TAY, Implied, 0xA8 (rules R141, R106). -/
def execTay (s : State) : StepResult := runImplied 0xA8 tay s

/-- TXA's effect (rule R142): `A <- X; SetZN(A)`. -/
def txa (s : State) : State := (s.setA s.x).setZN s.x

/-- TXA, Implied, 0x8A (rules R142, R106). -/
def execTxa (s : State) : StepResult := runImplied 0x8A txa s

/-- TYA's effect (rule R143): `A <- Y; SetZN(A)`. -/
def tya (s : State) : State := (s.setA s.y).setZN s.y

/-- TYA, Implied, 0x98 (rules R143, R106). -/
def execTya (s : State) : StepResult := runImplied 0x98 tya s

/-- TSX's effect (rule R144): `X <- SP; SetZN(X)`. -/
def tsx (s : State) : State := (s.setX s.sp).setZN s.sp

/-- TSX, Implied, 0xBA (rules R144, R106). -/
def execTsx (s : State) : StepResult := runImplied 0xBA tsx s

/-- TXS's effect (rule R145): `SP <- X`, no flag (90_conflicts.md C1). -/
def txs (s : State) : State := s.setSP s.x

/-- TXS, Implied, 0x9A (rules R145, R106). -/
def execTxs (s : State) : StepResult := runImplied 0x9A txs s

end Sys2Proof.Machine
end

