-- ==== Sys2Proof/Machine/Session.lean ====
section
/-! DEFINITION. One step of a session with the spec's own outcomes (spec/40_execution_and_addressing.md rules R100 to R105,
spec/60_exceptions.md rules R235, R236): the order of the checks, the opcode fetch, the operand fetch and the decode. -/

namespace Sys2Proof.Machine

/-- The outcomes of rule R100. -/
inductive StepOutcome where
  | executed (code : Byte)
  | interrupt (kind : InterruptKind)
  | halted
  | fault (f : Fault)
  | refused (r : Refusal)
  deriving DecidableEq, Repr

/-- `Fetch()` of rule R102: one bus read at PC, and PC advances by 1. -/
def fetch (s : State) : Byte × State :=
  let (code, s1) := memRead s.pc s
  (code, s1.setPC (add16 s1.pc 1))

/-- `FetchOperands` of rule R104: `n` operand bytes, each read once, at increasing addresses. -/
def fetchOperands : Nat → State → List Byte × State
  | 0, s => ([], s)
  | n + 1, s =>
    let (b, s1) := fetch s
    let (bs, s2) := fetchOperands n s1
    (b :: bs, s2)

/-- The interrupt the poll of rule R235 takes, if any: NMI first, IRQ only while I is clear. -/
def pendingInterrupt (s : State) : Option InterruptKind :=
  if s.nmiPending then some .nmi
  else if s.irqLine && !s.flag .i then some .irq
  else none

/-- Fetch, decode and execute one instruction (rule R101 from `addr <- PC` on). A byte with no table row raises the fault of
rule R231 before any operand byte is fetched. The second fault arm is reached by no bytes (log 12). -/
def runInstruction (s : State) : State × StepOutcome :=
  let addr := s.pc
  let (code, s1) := fetch s
  match opcodeRecord code with
  | none => (raiseUnimplemented code addr s1, .fault (.unimplementedOpcode code addr))
  | some r =>
    let (operands, s2) := fetchOperands (r.length - 1) s1
    match decode (code :: operands) with
    | .error _ => (raiseUnimplemented code addr s1, .fault (.unimplementedOpcode code addr))
    | .ok (i, _) =>
      match exec i s2 with
      | .next t => (t, .executed code)
      | .fault f => (s2, .fault f)
      | .refused r => (s2, .refused r)

/-- `step()` of rule R101: the checks in the order of rule R236, the first that applies decides. The state beside the outcome
is the machine after the step, also when the outcome is a fault. -/
def sessionStep (s : State) : State × StepOutcome :=
  if s.initialised then
    match s.fault with
    | some f => (s, .fault f)
    | none =>
      match s.run with
      | .halted => (s, .halted)
      | .running =>
        match pendingInterrupt s with
        | some kind => (interruptEntry kind s, .interrupt kind)
        | none => runInstruction s
  else (s, .refused .notInitialised)

/-- A session step as the host's interface has it: an executed instruction, an interrupt dispatch and a step of a halted
machine (which changes nothing) answer the next state; a fault and a refusal answer their reason (log 1, log 2). -/
def resultOf : State × StepOutcome → StepResult
  | (t, .executed _) => .next t
  | (t, .interrupt _) => .next t
  | (t, .halted) => .next t
  | (_, .fault f) => .fault f
  | (_, .refused r) => .refused r

end Sys2Proof.Machine
end

