-- ==== Sys2Proof/Machine/Step.lean ====
section
/-! DEFINITION. The step of the host's interface, and the placing of one instruction for the next step to run. -/

namespace Sys2Proof.Machine

/-- `step()` (rule R101), as the host's interface has it. -/
def step (s : State) : Host.Outcome State Fault Refusal := resultOf (sessionStep s)

/-- `s` with the instruction of a table word as the very next one a step runs (log 9). -/
def State.withFetchWord (s : State) (nbits w : Nat) : State := startAt (tableBytes nbits w) s

end Sys2Proof.Machine
end

