-- ==== Sys2Proof/Machine/Tracer.lean ====
section
/-! DEFINITION. The tracer port (spec/60_exceptions.md rules R246 to R249) and the assembler spelling of an instruction
(spec/30_encoding.md rule R88), as texts: lists of characters (log 16). -/

namespace Sys2Proof.Machine

/-- A text. -/
abbrev Text := List Char

/-! ### Spelling -/

/-- One upper-case hexadecimal digit. -/
def hexDigit (n : Nat) : Char := "0123456789ABCDEF".toList.getD (n % 16) '?'

/-- Two hexadecimal digits. -/
def hex2 (b : Byte) : Text := [hexDigit (b.toNat / 16), hexDigit b.toNat]

/-- Four hexadecimal digits. -/
def hex4 (w : Word) : Text := hex2 (hiByte w) ++ hex2 (loByte w)

/-- Pad on the right with spaces; a longer text is not cut (rule R247). -/
def padRight (n : Nat) (t : Text) : Text := t ++ List.replicate (n - t.length) ' '

/-- Pad on the left with spaces (rule R247). -/
def padLeft (n : Nat) (t : Text) : Text := List.replicate (n - t.length) ' ' ++ t

/-- Remove the spaces at the end (rule R247). -/
def trimRight (t : Text) : Text := (t.reverse.dropWhile (· == ' ')).reverse

/-- The three letters of a mnemonic (rule R88). -/
def mnemonicText : Mnemonic → Text
  | .adc => "ADC".toList
  | .and => "AND".toList
  | .asl => "ASL".toList
  | .bcc => "BCC".toList
  | .bcs => "BCS".toList
  | .beq => "BEQ".toList
  | .bit => "BIT".toList
  | .bmi => "BMI".toList
  | .bne => "BNE".toList
  | .bpl => "BPL".toList
  | .brk => "BRK".toList
  | .bvc => "BVC".toList
  | .bvs => "BVS".toList
  | .clc => "CLC".toList
  | .cld => "CLD".toList
  | .cli => "CLI".toList
  | .clv => "CLV".toList
  | .cmp => "CMP".toList
  | .cpx => "CPX".toList
  | .cpy => "CPY".toList
  | .dec => "DEC".toList
  | .dex => "DEX".toList
  | .dey => "DEY".toList
  | .eor => "EOR".toList
  | .inc => "INC".toList
  | .inx => "INX".toList
  | .iny => "INY".toList
  | .jmp => "JMP".toList
  | .jsr => "JSR".toList
  | .lda => "LDA".toList
  | .ldx => "LDX".toList
  | .ldy => "LDY".toList
  | .lsr => "LSR".toList
  | .nop => "NOP".toList
  | .ora => "ORA".toList
  | .pha => "PHA".toList
  | .php => "PHP".toList
  | .pla => "PLA".toList
  | .plp => "PLP".toList
  | .rol => "ROL".toList
  | .ror => "ROR".toList
  | .rti => "RTI".toList
  | .rts => "RTS".toList
  | .sbc => "SBC".toList
  | .sec => "SEC".toList
  | .sed => "SED".toList
  | .sei => "SEI".toList
  | .sta => "STA".toList
  | .stx => "STX".toList
  | .sty => "STY".toList
  | .tax => "TAX".toList
  | .tay => "TAY".toList
  | .tsx => "TSX".toList
  | .txa => "TXA".toList
  | .txs => "TXS".toList
  | .tya => "TYA".toList

/-- The assembler operand of rule R88; `next` is the address after the instruction, from which a branch's target comes. -/
def operandSyntax (next : Word) : Operand → Text
  | .implied => []
  | .accumulator => "A".toList
  | .immediate v => "#$".toList ++ hex2 v
  | .zeroPage z => "$".toList ++ hex2 z
  | .zeroPageX z => "$".toList ++ hex2 z ++ ",X".toList
  | .zeroPageY z => "$".toList ++ hex2 z ++ ",Y".toList
  | .absolute w => "$".toList ++ hex4 w
  | .absoluteX w => "$".toList ++ hex4 w ++ ",X".toList
  | .absoluteY w => "$".toList ++ hex4 w ++ ",Y".toList
  | .indirect w => "($".toList ++ hex4 w ++ ")".toList
  | .indirectX z => "($".toList ++ hex2 z ++ ",X)".toList
  | .indirectY z => "($".toList ++ hex2 z ++ "),Y".toList
  | .relative d => "$".toList ++ hex4 (add16 next (sext d))

/-- An instruction at `addr` as assembler text (rule R88). -/
def asmText (addr : Word) (i : Instr) : Text :=
  let next := add16 addr (BitVec.ofNat 16 (1 + i.operand.mode.operandBytes))
  trimRight (mnemonicText i.mnemonic ++ " ".toList ++ operandSyntax next i.operand)

/-! ### The trace line -/

/-- Whether a bus read at `a` may have an observable side effect (rule R249); RAM never has one. -/
def readMayAct (a : Word) : Bool :=
  match route a with
  | .ram _ => false
  | .delegate d t => Config.readHasSideEffect d t

/-- ` = ` and the byte `Peek` shows at `a`, left out where the read may act (rules R248, R249). -/
def valueSuffix (a : Word) (s : State) : Text :=
  if readMayAct a then [] else " = ".toList ++ hex2 (s.peek a)

/-- The pointer's value by `Peek` (rules R115 to R117, R248). -/
def peekPointer (o : Operand) (s : State) : Word :=
  match pointerAddresses o s with
  | none => 0
  | some (lowAt, highAt) => wordOf (s.peek lowAt) (s.peek highAt)

/-- Whether either pointer byte's read may act (rule R249). -/
def pointerMayAct (o : Operand) (s : State) : Bool :=
  match pointerAddresses o s with
  | none => false
  | some (lowAt, highAt) => readMayAct lowAt || readMayAct highAt

/-- The rendering of rule R248 for an operand, on a state whose PC is the address after the instruction. -/
def operandRendering (m : Mnemonic) (o : Operand) (s : State) : Text :=
  let ptr := peekPointer o s
  let ea := effectiveAddress o ptr s
  match o with
  | .implied => []
  | .accumulator => "A".toList
  | .immediate v => "#$".toList ++ hex2 v
  | .zeroPage z => "$".toList ++ hex2 z ++ valueSuffix ea s
  | .zeroPageX z => "$".toList ++ hex2 z ++ ",X @ ".toList ++ hex2 (loByte ea) ++ valueSuffix ea s
  | .zeroPageY z => "$".toList ++ hex2 z ++ ",Y @ ".toList ++ hex2 (loByte ea) ++ valueSuffix ea s
  | .absolute w =>
    if m == .jmp || m == .jsr then "$".toList ++ hex4 w else "$".toList ++ hex4 w ++ valueSuffix ea s
  | .absoluteX w => "$".toList ++ hex4 w ++ ",X @ ".toList ++ hex4 ea ++ valueSuffix ea s
  | .absoluteY w => "$".toList ++ hex4 w ++ ",Y @ ".toList ++ hex4 ea ++ valueSuffix ea s
  | .indirect w =>
    "($".toList ++ hex4 w ++ ")".toList ++ (if pointerMayAct o s then [] else " = ".toList ++ hex4 ea)
  | .indirectX z =>
    "($".toList ++ hex2 z ++ ",X) @ ".toList ++ hex2 (add8 z s.x) ++ " = ".toList ++ hex4 ea ++ valueSuffix ea s
  | .indirectY z =>
    "($".toList ++ hex2 z ++ "),Y = ".toList ++ hex4 ptr ++ " @ ".toList ++ hex4 ea ++ valueSuffix ea s
  | .relative _ => "$".toList ++ hex4 ea

/-- The bytes `Peek` shows at `n` addresses from `a` on (rule R247). -/
def peekBytes : Nat → Word → State → List Byte
  | 0, _, _ => []
  | n + 1, a, s => s.peek a :: peekBytes n (add16 a 1) s

/-- Bytes as hexadecimal pairs joined by one space (rule R247). -/
def hexBytes : List Byte → Text
  | [] => []
  | [b] => hex2 b
  | b :: bs => hex2 b ++ " ".toList ++ hexBytes bs

/-- The line layout of rule R247. -/
def traceLayout (s : State) (bytes : List Byte) (mnemonic operand : Text) : Text :=
  let asm := trimRight (hex4 s.pc ++ "  ".toList ++ padRight 8 (hexBytes bytes) ++ " ".toList ++ padLeft 4 mnemonic
    ++ " ".toList ++ operand)
  padRight 47 asm ++ " A:".toList ++ hex2 s.a ++ " X:".toList ++ hex2 s.x ++ " Y:".toList ++ hex2 s.y
    ++ " P:".toList ++ hex2 s.p ++ " SP:".toList ++ hex2 s.sp

/-- `trace(state)` (rule R246): the line for the instruction at PC, read with `Peek` only; refused before the first reset. A byte
with no table row shows as `???` (rule R246). -/
def trace (s : State) : Except Refusal Text :=
  if s.initialised then
    let code := s.peek s.pc
    let unknown := traceLayout s [code] "???".toList []
    match opcodeRecord code with
    | none => .ok unknown
    | some r =>
      let bytes := peekBytes r.length s.pc s
      match decode bytes with
      | .error _ => .ok unknown
      | .ok (i, _) =>
        let next := add16 s.pc (BitVec.ofNat 16 r.length)
        .ok (traceLayout s bytes (mnemonicText i.mnemonic) (operandRendering i.mnemonic i.operand (s.setPC next)))
  else .error .notInitialised

end Sys2Proof.Machine
end

