-- ==== Sys2Proof/Safety.lean ====
section
/-! DEFINITION. What counts as a well-formed state and a safe step, in the terms the claims use. -/

namespace Sys2Proof.Machine

/-- The target addresses a delegate can be passed (rule R51). -/
def firstTarget : DelegateId → Nat
  | .ppu => 0x2000
  | .io => 0x4000
  | .cart => 0x8000

/-- The end of a delegate's target addresses (rule R51). -/
def endTarget : DelegateId → Nat
  | .ppu => 0x2008
  | .io => 0x8000
  | .cart => 0x10000

/-- A delegate's declared contents are in canonical form, at addresses it can be passed. -/
def DelegateState.wf (d : DelegateId) (ds : DelegateState) : Bool :=
  Memory.wf (endTarget d) (firstTarget d) ds.rom && Memory.wf (endTarget d) (firstTarget d) ds.ram

/-- Every memory of the machine is in canonical form: RAM at indexes below 2048 (rule R52), the delegates' contents at their
target addresses (rule R51). -/
def State.wf (s : State) : Bool :=
  Memory.wf Config.ramSize 0 s.ram && s.ppu.wf .ppu && s.io.wf .io && s.cart.wf .cart

/-- A step that neither faults nor is refused. -/
def SafeStep (s : State) : Prop := ∃ t, step s = .next t

end Sys2Proof.Machine
end

