-- ==== Sys2Proof/Certificates/Slice0/Obligations.lean ====
section
/-! DEFINITION. The statements for the provers, from the spec's numbered rules, with the few words they are said in. -/

namespace Sys2Proof.Claims

open Sys2Proof.Machine

/-! ### The words of the statements -/

/-- One bus transaction of one byte (rules R56, R57). -/
inductive Access where
  | read (a : Word)
  | write (a : Word) (v : Byte)
  deriving DecidableEq, Repr

/-- The state after bus transactions made in order (rule R75). -/
def perform : List Access → State → State
  | [], s => s
  | .read a :: rest, s => perform rest (s.afterRead a)
  | .write a v :: rest, s => perform rest (memWrite a v s)

/-- The effective address the model's resolver gives an operand. -/
def eaOf (o : Operand) (s : State) : Word := (resolve o s).1.ea

/-- The reads of an indirect mode's pointer, low byte first. -/
def pointerReads (o : Operand) (s : State) : List Access :=
  match pointerAddresses o s with
  | none => []
  | some (lowAt, highAt) => [.read lowAt, .read highAt]

/-- The one data read of a mode that has a memory operand (rule R119). -/
def dataReads (o : Operand) (s : State) : List Access :=
  match o with
  | .implied | .accumulator | .immediate _ | .relative _ => []
  | _ => [.read (eaOf o s)]

/-- The transactions of `Operand()`: the pointer's reads, then the data read (rules R75, R119). -/
def operandReads (o : Operand) (s : State) : List Access := pointerReads o s ++ dataReads o s

/-- The byte `Operand()` gives (rules R107, R108, R119). -/
def operandByte (o : Operand) (s : State) : Byte :=
  match o with
  | .immediate v => v
  | .accumulator => s.a
  | _ => (perform (pointerReads o s) s).busByte (eaOf o s)

/-- `Cost(op, ea, taken)` of rule R270 for an instruction that is no branch. -/
def costOf (i : Instr) (s : State) : Nat := cost i.opcode (resolve i.operand s).1.crossed false

/-- Z and N of `p` are those of the result `v` (rule R123). -/
def znOf (v p : Byte) : Prop := (getFlag .z p = true ↔ v = 0) ∧ (getFlag .n p = true ↔ 0x80 ≤ v.toNat)

/-- Every flag of P but the named ones is as before. -/
def flagsKept (written : List Flag) (before after : Byte) : Prop :=
  ∀ f, f ∉ written → getFlag f after = getFlag f before

/-- The byte on the stack page at an SP value (rule R24). -/
def stackByte (sp : Byte) (s : State) : Byte := s.ramByte (0x100 + sp.toNat)

/-- A state in which a step fetches an instruction: initialised, with no fault, running, with no interrupt to take (rule R101). -/
def fetches (s : State) : Prop :=
  s.initialised = true ∧ s.fault = none ∧ s.run = .running ∧ s.nmiPending = false
    ∧ (s.irqLine = true → getFlag .i s.p = true)

/-- The 105 bytes of rule R85. -/
def undocumentedOpcodes : List Nat := [
  0x02, 0x03, 0x04, 0x07, 0x0B, 0x0C, 0x0F, 0x12, 0x13, 0x14, 0x17, 0x1A, 0x1B, 0x1C, 0x1F, 0x22, 0x23, 0x27, 0x2B, 0x2F,
  0x32, 0x33, 0x34, 0x37, 0x3A, 0x3B, 0x3C, 0x3F, 0x42, 0x43, 0x44, 0x47, 0x4B, 0x4F, 0x52, 0x53, 0x54, 0x57] ++ [
  0x5A, 0x5B, 0x5C, 0x5F, 0x62, 0x63, 0x64, 0x67, 0x6B, 0x6F, 0x72, 0x73, 0x74, 0x77, 0x7A, 0x7B, 0x7C, 0x7F, 0x80, 0x82,
  0x83, 0x87, 0x89, 0x8B, 0x8F, 0x92, 0x93, 0x97, 0x9B, 0x9C, 0x9E, 0x9F, 0xA3, 0xA7, 0xAB, 0xAF, 0xB2, 0xB3] ++ [
  0xB7, 0xBB, 0xBF, 0xC2, 0xC3, 0xC7, 0xCB, 0xCF, 0xD2, 0xD3, 0xD4, 0xD7, 0xDA, 0xDB, 0xDC, 0xDF, 0xE2, 0xE3, 0xE7, 0xEB,
  0xEF, 0xF2, 0xF3, 0xF4, 0xF7, 0xFA, 0xFB, 0xFC, 0xFF]

/-- What a branch with condition `taken` leaves (rules R190, R269, R270). -/
def afterBranch (d : Byte) (taken : Bool) (s : State) : State :=
  let target := s.pc + sext d
  if taken then
    { s with
      pc := target
      cycles := s.cycles + 2 + 1 + (if hiByte target = hiByte s.pc then 0 else 1) }
  else { s with cycles := s.cycles + 2 }

/-- The result, as a number, and the carry out of a shift or rotate of `v` with carry in `c` (rules R170 to R173). -/
def shiftOf (m : Mnemonic) (v : Byte) (c : Bool) : Option (Nat × Bool) :=
  match m with
  | .asl => some (2 * v.toNat % 256, decide (0x80 ≤ v.toNat))
  | .lsr => some (v.toNat / 2, decide (v.toNat % 2 = 1))
  | .rol => some (2 * v.toNat % 256 + c.toNat, decide (0x80 ≤ v.toNat))
  | .ror => some (v.toNat / 2 + 128 * c.toNat, decide (v.toNat % 2 = 1))
  | _ => none

/-- The encodings that the instruction rules R130 to R220 give each mnemonic: opcode byte and mode. -/
def encodings : Mnemonic → List (Nat × AddressingMode)
  | .lda => [(0xA9, .immediate), (0xA5, .zeroPage), (0xB5, .zeroPageX), (0xAD, .absolute),
      (0xBD, .absoluteX), (0xB9, .absoluteY), (0xA1, .indirectX), (0xB1, .indirectY)]
  | .ldx => [(0xA2, .immediate), (0xA6, .zeroPage), (0xB6, .zeroPageY), (0xAE, .absolute), (0xBE, .absoluteY)]
  | .ldy => [(0xA0, .immediate), (0xA4, .zeroPage), (0xB4, .zeroPageX), (0xAC, .absolute), (0xBC, .absoluteX)]
  | .sta => [(0x85, .zeroPage), (0x95, .zeroPageX), (0x8D, .absolute), (0x9D, .absoluteX),
      (0x99, .absoluteY), (0x81, .indirectX), (0x91, .indirectY)]
  | .stx => [(0x86, .zeroPage), (0x96, .zeroPageY), (0x8E, .absolute)]
  | .sty => [(0x84, .zeroPage), (0x94, .zeroPageX), (0x8C, .absolute)]
  | .tax => [(0xAA, .implied)]
  | .tay => [(0xA8, .implied)]
  | .txa => [(0x8A, .implied)]
  | .tya => [(0x98, .implied)]
  | .tsx => [(0xBA, .implied)]
  | .txs => [(0x9A, .implied)]
  | .adc => [(0x69, .immediate), (0x65, .zeroPage), (0x75, .zeroPageX), (0x6D, .absolute),
      (0x7D, .absoluteX), (0x79, .absoluteY), (0x61, .indirectX), (0x71, .indirectY)]
  | .sbc => [(0xE9, .immediate), (0xE5, .zeroPage), (0xF5, .zeroPageX), (0xED, .absolute),
      (0xFD, .absoluteX), (0xF9, .absoluteY), (0xE1, .indirectX), (0xF1, .indirectY)]
  | .cmp => [(0xC9, .immediate), (0xC5, .zeroPage), (0xD5, .zeroPageX), (0xCD, .absolute),
      (0xDD, .absoluteX), (0xD9, .absoluteY), (0xC1, .indirectX), (0xD1, .indirectY)]
  | .cpx => [(0xE0, .immediate), (0xE4, .zeroPage), (0xEC, .absolute)]
  | .cpy => [(0xC0, .immediate), (0xC4, .zeroPage), (0xCC, .absolute)]
  | .and => [(0x29, .immediate), (0x25, .zeroPage), (0x35, .zeroPageX), (0x2D, .absolute),
      (0x3D, .absoluteX), (0x39, .absoluteY), (0x21, .indirectX), (0x31, .indirectY)]
  | .ora => [(0x09, .immediate), (0x05, .zeroPage), (0x15, .zeroPageX), (0x0D, .absolute),
      (0x1D, .absoluteX), (0x19, .absoluteY), (0x01, .indirectX), (0x11, .indirectY)]
  | .eor => [(0x49, .immediate), (0x45, .zeroPage), (0x55, .zeroPageX), (0x4D, .absolute),
      (0x5D, .absoluteX), (0x59, .absoluteY), (0x41, .indirectX), (0x51, .indirectY)]
  | .bit => [(0x24, .zeroPage), (0x2C, .absolute)]
  | .asl => [(0x0A, .accumulator), (0x06, .zeroPage), (0x16, .zeroPageX), (0x0E, .absolute), (0x1E, .absoluteX)]
  | .lsr => [(0x4A, .accumulator), (0x46, .zeroPage), (0x56, .zeroPageX), (0x4E, .absolute), (0x5E, .absoluteX)]
  | .rol => [(0x2A, .accumulator), (0x26, .zeroPage), (0x36, .zeroPageX), (0x2E, .absolute), (0x3E, .absoluteX)]
  | .ror => [(0x6A, .accumulator), (0x66, .zeroPage), (0x76, .zeroPageX), (0x6E, .absolute), (0x7E, .absoluteX)]
  | .inc => [(0xE6, .zeroPage), (0xF6, .zeroPageX), (0xEE, .absolute), (0xFE, .absoluteX)]
  | .dec => [(0xC6, .zeroPage), (0xD6, .zeroPageX), (0xCE, .absolute), (0xDE, .absoluteX)]
  | .inx => [(0xE8, .implied)]
  | .iny => [(0xC8, .implied)]
  | .dex => [(0xCA, .implied)]
  | .dey => [(0x88, .implied)]
  | .bpl => [(0x10, .relative)]
  | .bmi => [(0x30, .relative)]
  | .bvc => [(0x50, .relative)]
  | .bvs => [(0x70, .relative)]
  | .bcc => [(0x90, .relative)]
  | .bcs => [(0xB0, .relative)]
  | .bne => [(0xD0, .relative)]
  | .beq => [(0xF0, .relative)]
  | .pha => [(0x48, .implied)]
  | .php => [(0x08, .implied)]
  | .pla => [(0x68, .implied)]
  | .plp => [(0x28, .implied)]
  | .jsr => [(0x20, .absolute)]
  | .rts => [(0x60, .implied)]
  | .rti => [(0x40, .implied)]
  | .jmp => [(0x4C, .absolute), (0x6C, .indirect)]
  | .clc => [(0x18, .implied)]
  | .sec => [(0x38, .implied)]
  | .cli => [(0x58, .implied)]
  | .sei => [(0x78, .implied)]
  | .cld => [(0xD8, .implied)]
  | .sed => [(0xF8, .implied)]
  | .clv => [(0xB8, .implied)]
  | .nop => [(0xEA, .implied)]
  | .brk => [(0x00, .implied)]

/-- An instruction has one of the encodings its own rule gives. -/
def encodedAs (i : Instr) : Prop := (i.opcode.toNat, i.operand.mode) ∈ encodings i.mnemonic

/-- The mnemonics whose memory forms write at the effective address. -/
def storesAtEa (i : Instr) : Bool :=
  i.operand != .accumulator
    && [.sta, .stx, .sty, .asl, .lsr, .rol, .ror, .inc, .dec].contains i.mnemonic

/-- The mnemonics that push. -/
def pushes (i : Instr) : Bool := [Mnemonic.pha, .php, .jsr].contains i.mnemonic

end Sys2Proof.Claims

open Sys2Proof Sys2Proof.Machine Sys2Proof.Claims

/-! ### Encoding -/

/-- Rules R80, R84: decoding an instruction's bytes, whatever follows them, gives that instruction and what follows; and every
instruction is a line the assembler accepts. -/
def Obligations.DecodeOfEncodeGivesInstructionBack : Prop :=
  ∀ (i : Instr) (rest : List Byte), i.wellFormed = true ∧ decode (encode i ++ rest) = .ok (i, rest)

/-- Rules R80, R84: bytes that decode are the encoding of what they decode to, followed by the rest; no bit is dropped. -/
def Obligations.EncodeOfDecodedBytesGivesBytesBack : Prop :=
  ∀ (bytes : List Byte) (i : Instr) (rest : List Byte), decode bytes = .ok (i, rest) → encode i ++ rest = bytes

/-- Rules R85, R103, R231: the bytes outside the table are the 105 listed; the decoder refuses each by name, whatever follows; and a
step that fetches one answers the fault: only the opcode fetch's read has taken place, PC is the byte's address, the mark records
both, and nothing else is changed. -/
def Obligations.UndocumentedBytesRaiseThePreciseFault : Prop :=
  undocumentedOpcodes.length = 105 ∧
  (∀ code : Byte, code.toNat ∈ undocumentedOpcodes ↔ opcodeRecord code = none) ∧
  (∀ (code : Byte) (rest : List Byte), code.toNat ∈ undocumentedOpcodes →
    decode (code :: rest) = .error (.unimplementedOpcode code)) ∧
  (∀ s : State, fetches s → (s.busByte s.pc).toNat ∈ undocumentedOpcodes →
    let f := Fault.unimplementedOpcode (s.busByte s.pc) s.pc
    sessionStep s = ({ s.afterRead s.pc with fault := some f }, .fault f) ∧ step s = .fault f)

/-- Rule R83: the table has 151 rows, no opcode twice, each an encoding that its instruction's own rule gives;
each instruction has its row, whose length is its mode's layout's. -/
def Obligations.TableRowsDescribeInstructions : Prop :=
  opcodeTable.length = 151 ∧ (opcodeTable.map OpcodeRecord.code).Nodup ∧
  (∀ r ∈ opcodeTable, (r.code.toNat, r.mode) ∈ encodings r.mnemonic) ∧
  ∀ i : Instr, ∃ r, opcodeRecord i.opcode = some r ∧ r.code = i.opcode ∧ r.mnemonic = i.mnemonic
    ∧ r.mode = i.operand.mode ∧ r.length = 1 + i.operand.mode.operandBytes ∧ r.length = (encode i).length

/-- Words written out from the table of rule R84, one or more of each family. -/
def Obligations.SampleWordsDecode : Prop :=
  decode [0xA9, 0x05] = .ok (.ldaImm 0x05, []) ∧ decode [0x8D, 0x00, 0x08] = .ok (.staAbs 0x0800, []) ∧
  decode [0xAA] = .ok (.tax, []) ∧ decode [0x71, 0x40] = .ok (.adcIndY 0x40, []) ∧
  decode [0x3D, 0xFF, 0x02] = .ok (.andAbsX 0x02FF, []) ∧ decode [0x6A] = .ok (.rorAcc, []) ∧
  decode [0xF6, 0x10] = .ok (.incZpX 0x10, []) ∧ decode [0xD0, 0xFB] = .ok (.bne 0xFB, []) ∧
  decode [0x20, 0x00, 0x07] = .ok (.jsrAbs 0x0700, []) ∧ decode [0x6C, 0xFF, 0x30] = .ok (.jmpInd 0x30FF, []) ∧
  decode [0x00, 0xEA] = .ok (.brk, [0xEA])

/-! ### The bus -/

/-- Rule R51: the address map, each address with exactly one owner and the target passed on. -/
def Obligations.AddressMapGivesEachAddressItsOwner : Prop :=
  ∀ a : Word,
    (a.toNat ≤ 0x1FFF → route a = .ram (a.toNat % 2048)) ∧
    (0x2000 ≤ a.toNat → a.toNat ≤ 0x3FFF → route a = .delegate .ppu (BitVec.ofNat 16 (0x2000 + a.toNat % 8))) ∧
    (0x4000 ≤ a.toNat → a.toNat ≤ 0x7FFF → route a = .delegate .io a) ∧
    (0x8000 ≤ a.toNat → route a = .delegate .cart a)

/-- Rules R52, R61: RAM is masked, not copied. A write is read back at every mirror of its cell and nowhere else; reads change
nothing; a cell nothing has written holds RAM_INIT; a write changes no state but RAM. -/
def Obligations.RamMirrorsShareOneCell : Prop :=
  ∀ (s : State) (a b : Word) (v : Byte), a.toNat ≤ 0x1FFF → b.toNat ≤ 0x1FFF →
    (a &&& 0x07FF = b &&& 0x07FF → (memWrite a v s).busByte b = v) ∧
    (a &&& 0x07FF ≠ b &&& 0x07FF → (memWrite a v s).busByte b = s.busByte b) ∧
    memRead a s = (s.ramByte (a.toNat % 2048), s) ∧
    (Memory.get? s.ram (a.toNat % 2048) = none → s.busByte a = Config.ramInit (a.toNat % 2048)) ∧
    memWrite a v s = { s with ram := (memWrite a v s).ram }

/-- Rules R56, R57, R60, R65: an access outside RAM reaches its owner exactly once and changes nothing else. A read answers the
delegate's byte; where `read_has_side_effect` is false it changes no state at all, elsewhere the delegate has seen it. A write is
seen, and takes effect in declared plain storage. All other state is kept: a delegate's new state is one field of State. The form
in which the delegate's state is held (the events it has seen, the contents the host declared) is the model's choice, log 4 and
log 5. -/
def Obligations.DelegateSeesEachAccessOnce : Prop :=
  ∀ (s : State) (a : Word) (v : Byte) (d : DelegateId) (u : Word), route a = .delegate d u →
    let ds := s.delegate d
    let withDelegate (new : DelegateState) : State :=
      match d with
      | .ppu => { s with ppu := new }
      | .io => { s with io := new }
      | .cart => { s with cart := new }
    memRead a s = (s.busByte a, s.afterRead a) ∧
    s.busByte a = (match ds.declared? u with | some b => b | none => Config.delegateRead d ds.events u) ∧
    s.afterRead a
      = (if Config.readHasSideEffect d u then withDelegate { ds with events := .read u :: ds.events } else s) ∧
    (∃ ram, memWrite a v s = withDelegate { ds with ram := ram, events := .write u v :: ds.events } ∧
      ∀ k, Memory.get? ram k
        = (if k = u.toNat ∧ Memory.get? ds.ram k ≠ none then some v else Memory.get? ds.ram k))

/-- Rules R58, R59, R62: 16-bit reads and writes are two accesses, low byte at the lower address first, the second address
wrapping; and a word written in RAM is read back. -/
def Obligations.SixteenBitAccessesAreLittleEndian : Prop :=
  ∀ (s : State) (a v : Word),
    (memRead16 a s).1.toNat = (s.busByte a).toNat + 256 * ((s.afterRead a).busByte (a + 1)).toNat ∧
    (memRead16 a s).2 = perform [.read a, .read (a + 1)] s ∧
    memWrite16 a v s
      = perform [.write a (BitVec.ofNat 8 (v.toNat % 256)), .write (a + 1) (BitVec.ofNat 8 (v.toNat / 256))] s ∧
    (a.toNat < 0x1FFF → (memRead16 a (memWrite16 a v s)).1 = v)

/-- Rules R24, R121, R122: the stack is the page 0x0100; a push writes one RAM cell and steps SP down, wrapping; a pull steps SP
up and reads; a push followed by a pull restores SP and returns the pushed byte. -/
def Obligations.PushThenPullReturnsTheByte : Prop :=
  ∀ (s : State) (v : Byte),
    (push v s).sp = s.sp - 1 ∧ stackByte s.sp (push v s) = v ∧
    (∀ k, k ≠ 0x100 + s.sp.toNat → (push v s).ramByte k = s.ramByte k) ∧
    pull s = (stackByte (s.sp + 1) s, { s with sp := s.sp + 1 }) ∧
    (pull (push v s)).1 = v ∧ (pull (push v s)).2.sp = s.sp

/-! ### Flags and the ALU -/

/-- Rule R150: the ALU's addition is the exact sum, split; V is 1 exactly when the signed sum leaves -128..127. -/
def Obligations.AdditionCarryAndOverflowAreExact : Prop :=
  ∀ (a m : Byte) (cin : Bool),
    (addCore a m cin).result.toNat = (a.toNat + m.toNat + cin.toNat) % 256 ∧
    ((addCore a m cin).carry = true ↔ 255 < a.toNat + m.toNat + cin.toNat) ∧
    ((addCore a m cin).overflow = true ↔
      (a.toInt + m.toInt + (cin.toNat : Int) < -128 ∨ 127 < a.toInt + m.toInt + (cin.toNat : Int)))

/-! ### Addressing modes -/

/-- Rules R108 to R111, R113, R114: the effective address of the modes that make no pointer read and the value of an immediate,
with no bus transaction and no change of state. -/
def Obligations.DirectModesResolve : Prop :=
  ∀ (s : State) (b : Byte) (w : Word),
    ((resolve (.immediate b) s).1.ea = s.pc - 1 ∧ readOperand (.immediate b) (s.pc - 1) s = (b, s)) ∧
    (resolve (.zeroPage b) s).1.ea.toNat = b.toNat ∧
    (resolve (.zeroPageX b) s).1.ea.toNat = (b.toNat + s.x.toNat) % 256 ∧
    (resolve (.zeroPageY b) s).1.ea.toNat = (b.toNat + s.y.toNat) % 256 ∧
    (resolve (.absolute w) s).1.ea = w ∧
    (resolve (.absoluteX w) s).1.ea.toNat = (w.toNat + s.x.toNat) % 65536 ∧
    (resolve (.absoluteY w) s).1.ea.toNat = (w.toNat + s.y.toNat) % 65536 ∧
    (resolve (.relative b) s).1.ea.toNat = ((s.pc.toNat : Int) + b.toInt) % 65536 ∧
    ∀ o ∈ [Operand.immediate b, .zeroPage b, .zeroPageX b, .zeroPageY b, .absolute w, .absoluteX w, .absoluteY w,
      .relative b], (resolve o s).2 = s

/-- Rules R115 to R117: the pointers of the indirect modes. JMP's pointer wraps within its page; the zero-page pointers wrap
within zero page, are RAM, and change nothing. -/
def Obligations.IndirectModesWrapTheirPointer : Prop :=
  ∀ (s : State) (z : Byte) (ptr : Word),
    (let highAt : Word := if ptr.toNat % 256 = 255 then ptr - 255 else ptr + 1
     (resolve (.indirect ptr) s).1.ea.toNat
        = (s.busByte ptr).toNat + 256 * ((s.afterRead ptr).busByte highAt).toNat ∧
     (resolve (.indirect ptr) s).2 = perform [.read ptr, .read highAt] s) ∧
    ((resolve (.indirectX z) s).1.ea.toNat
        = (s.ramByte ((z.toNat + s.x.toNat) % 256)).toNat + 256 * (s.ramByte ((z.toNat + s.x.toNat + 1) % 256)).toNat ∧
     (resolve (.indirectX z) s).2 = s) ∧
    ((resolve (.indirectY z) s).1.ea.toNat
        = ((s.ramByte z.toNat).toNat + 256 * (s.ramByte ((z.toNat + 1) % 256)).toNat + s.y.toNat) % 65536 ∧
     (resolve (.indirectY z) s).2 = s)

/-- Rule R124: an access crosses a page when indexing changes the high byte of the address; the other modes never do. -/
def Obligations.PageCrossingFollowsTheHighByte : Prop :=
  ∀ (s : State) (z : Byte) (w : Word),
    ((resolve (.absoluteX w) s).1.crossed = true ↔ hiByte w ≠ hiByte (w + zext s.x)) ∧
    ((resolve (.absoluteY w) s).1.crossed = true ↔ hiByte w ≠ hiByte (w + zext s.y)) ∧
    ((resolve (.indirectY z) s).1.crossed = true ↔
      s.ramByte ((z.toNat + 1) % 256) ≠ hiByte (resolve (.indirectY z) s).1.ea) ∧
    ((resolve (.relative z) s).1.crossed = true ↔ hiByte s.pc ≠ hiByte (s.pc + sext z)) ∧
    ∀ o ∈ [Operand.implied, .accumulator, .immediate z, .zeroPage z, .zeroPageX z, .zeroPageY z, .absolute w, .indirect w,
      .indirectX z], (resolve o s).1.crossed = false

/-- Rule R270 with R269: the cost of a row is its base, one more for a page crossing where the row pays it, and for a branch taken
one more, and one more on another page; the rows that pay the crossing are those R269 names. -/
def Obligations.CycleCostFollowsTheTable : Prop :=
  (∀ r ∈ opcodeTable, ∀ crossed taken : Bool,
    cost r.code crossed taken = r.baseCycles + (if r.pageCrossPenalty ∧ crossed then 1 else 0)
      + (if r.mode = .relative ∧ taken then 1 + (if crossed then 1 else 0) else 0)) ∧
  (∀ r ∈ opcodeTable, r.pageCrossPenalty = true ↔
    (r.mnemonic ∈ [Mnemonic.adc, .and, .cmp, .eor, .lda, .ora, .sbc] ∧
        r.mode ∈ [AddressingMode.absoluteX, .absoluteY, .indirectY])
      ∨ (r.mnemonic = .ldx ∧ r.mode = .absoluteY) ∨ (r.mnemonic = .ldy ∧ r.mode = .absoluteX))

/-! ### What each instruction does: `exec` answers a next state, and which -/

/-- Rules R130, R131, R132: LDA, LDX, LDY in every mode complete, with the operand byte in the register, Z and N from it, and
nothing else changed but what the operand's reads do and the cycles. -/
def Obligations.LoadsPutTheOperandInTheRegister : Prop :=
  ∀ (i : Instr) (s : State),
    let v := operandByte i.operand s
    let u := perform (operandReads i.operand s) s
    (i.mnemonic = .lda → encodedAs i ∧ ∃ p, exec i s = .next { u with a := v, p := p, cycles := s.cycles + costOf i s }
      ∧ znOf v p ∧ flagsKept [.z, .n] s.p p) ∧
    (i.mnemonic = .ldx → encodedAs i ∧ ∃ p, exec i s = .next { u with x := v, p := p, cycles := s.cycles + costOf i s }
      ∧ znOf v p ∧ flagsKept [.z, .n] s.p p) ∧
    (i.mnemonic = .ldy → encodedAs i ∧ ∃ p, exec i s = .next { u with y := v, p := p, cycles := s.cycles + costOf i s }
      ∧ znOf v p ∧ flagsKept [.z, .n] s.p p)

/-- Rules R133, R134, R135: STA, STX, STY in every mode complete: after the pointer's reads, one write of the register at the
effective address, which is not read, and nothing else but the cycles; no flag. -/
def Obligations.StoresWriteTheRegister : Prop :=
  ∀ (i : Instr) (s : State),
    let stored (v : Byte) : StepResult :=
      .next { perform (pointerReads i.operand s ++ [.write (eaOf i.operand s) v]) s with cycles := s.cycles + costOf i s }
    (i.mnemonic = .sta → encodedAs i ∧ exec i s = stored s.a) ∧
    (i.mnemonic = .stx → encodedAs i ∧ exec i s = stored s.x) ∧
    (i.mnemonic = .sty → encodedAs i ∧ exec i s = stored s.y)

/-- Rules R140 to R145: the transfers complete and copy the register; those into A, X and Y set Z and N from it, TXS writes no flag;
nothing else changes. -/
def Obligations.TransfersCopyAndTxsWritesNoFlag : Prop :=
  ∀ s : State,
    (∀ i ∈ [Instr.tax, .tay, .txa, .tya, .tsx, .txs], encodedAs i) ∧
    (∃ p, exec .tax s = .next { s with x := s.a, p := p, cycles := s.cycles + 2 } ∧ znOf s.a p ∧ flagsKept [.z, .n] s.p p) ∧
    (∃ p, exec .tay s = .next { s with y := s.a, p := p, cycles := s.cycles + 2 } ∧ znOf s.a p ∧ flagsKept [.z, .n] s.p p) ∧
    (∃ p, exec .txa s = .next { s with a := s.x, p := p, cycles := s.cycles + 2 } ∧ znOf s.x p ∧ flagsKept [.z, .n] s.p p) ∧
    (∃ p, exec .tya s = .next { s with a := s.y, p := p, cycles := s.cycles + 2 } ∧ znOf s.y p ∧ flagsKept [.z, .n] s.p p) ∧
    (∃ p, exec .tsx s = .next { s with x := s.sp, p := p, cycles := s.cycles + 2 } ∧ znOf s.sp p ∧ flagsKept [.z, .n] s.p p) ∧
    exec .txs s = .next { s with sp := s.x, cycles := s.cycles + 2 }

/-- Rule R151: ADC in every mode completes: A is the wrapped sum of A, the operand and C; C is the carry out, V the signed
overflow, Z and N are the result's. -/
def Obligations.AdcAddsWithCarry : Prop :=
  ∀ (i : Instr) (s : State), i.mnemonic = .adc →
    let m := operandByte i.operand s
    let sum := s.a.toNat + m.toNat + (getFlag .c s.p).toNat
    let r := BitVec.ofNat 8 sum
    encodedAs i ∧ ∃ p, exec i s = .next { perform (operandReads i.operand s) s with
          a := r, p := p, cycles := s.cycles + costOf i s }
      ∧ (getFlag .c p = true ↔ 255 < sum)
      ∧ (getFlag .v p = true ↔ (s.a.msb = m.msb ∧ r.msb ≠ s.a.msb))
      ∧ znOf r p ∧ flagsKept [.c, .v, .z, .n] s.p p

/-- Rule R152: SBC in every mode completes: A is `A - m - (1 - C)` wrapped; C is 1 exactly when there is no borrow; V is set when
A and m have different signs and the result's sign differs from A's; Z and N are the result's. -/
def Obligations.SbcSubtractsWithBorrow : Prop :=
  ∀ (i : Instr) (s : State), i.mnemonic = .sbc →
    let m := operandByte i.operand s
    let difference : Int := s.a.toNat - m.toNat - (1 - (getFlag .c s.p).toNat)
    let r := BitVec.ofInt 8 difference
    encodedAs i ∧ ∃ p, exec i s = .next { perform (operandReads i.operand s) s with
          a := r, p := p, cycles := s.cycles + costOf i s }
      ∧ (getFlag .c p = true ↔ 0 ≤ difference)
      ∧ (getFlag .v p = true ↔ (s.a.msb ≠ m.msb ∧ r.msb ≠ s.a.msb))
      ∧ znOf r p ∧ flagsKept [.c, .v, .z, .n] s.p p

/-- Rules R153, R154, R155: CMP, CPX, CPY in every mode complete: C from the unsigned comparison, Z and N from the 8-bit
difference; V, the other flags and every register are unchanged. -/
def Obligations.ComparesWriteOnlyFlags : Prop :=
  ∀ (i : Instr) (s : State),
    let m := operandByte i.operand s
    let compared (r : Byte) : Prop :=
      encodedAs i ∧ ∃ p, exec i s = .next { perform (operandReads i.operand s) s with p := p, cycles := s.cycles + costOf i s }
        ∧ (getFlag .c p = true ↔ m.toNat ≤ r.toNat) ∧ (getFlag .z p = true ↔ r = m)
        ∧ getFlag .n p = (r - m).msb ∧ flagsKept [.c, .z, .n] s.p p
    (i.mnemonic = .cmp → compared s.a) ∧ (i.mnemonic = .cpx → compared s.x) ∧ (i.mnemonic = .cpy → compared s.y)

/-- Rules R160, R161, R162: AND, ORA, EOR in every mode complete: A is combined bitwise with the operand, Z and N are the
result's. -/
def Obligations.LogicalsCombineWithA : Prop :=
  ∀ (i : Instr) (s : State),
    let m := operandByte i.operand s
    let combined (r : Byte) : Prop :=
      encodedAs i ∧ ∃ p, exec i s = .next { perform (operandReads i.operand s) s with
            a := r, p := p, cycles := s.cycles + costOf i s }
        ∧ znOf r p ∧ flagsKept [.z, .n] s.p p
    (i.mnemonic = .and → combined (s.a &&& m)) ∧ (i.mnemonic = .ora → combined (s.a ||| m)) ∧
    (i.mnemonic = .eor → combined (s.a ^^^ m))

/-- Rule R163: BIT in both modes completes: Z from `A & m`, V and N from bits 6 and 7 of the memory byte, no register written. -/
def Obligations.BitTakesFlagsFromMemory : Prop :=
  ∀ (i : Instr) (s : State), i.mnemonic = .bit →
    let m := operandByte i.operand s
    encodedAs i ∧ ∃ p, exec i s = .next { perform (operandReads i.operand s) s with p := p, cycles := s.cycles + costOf i s }
      ∧ (getFlag .z p = true ↔ s.a &&& m = 0) ∧ getFlag .v p = m.getLsbD 6 ∧ getFlag .n p = m.getLsbD 7
      ∧ flagsKept [.z, .v, .n] s.p p

/-- Rules R170 to R173: ASL, LSR, ROL, ROR complete in every mode: in Accumulator mode on A, with no bus transaction; in a memory
mode with one read and then one write of the effective address. C is the bit shifted out, Z and N are the result's. -/
def Obligations.ShiftsMoveOneBitThroughTheCarry : Prop :=
  ∀ (i : Instr) (s : State) (r : Nat) (out : Bool),
    let written (p : Byte) : Prop :=
      getFlag .c p = out ∧ znOf (BitVec.ofNat 8 r) p ∧ flagsKept [.c, .z, .n] s.p p
    (i.operand = .accumulator → shiftOf i.mnemonic s.a (getFlag .c s.p) = some (r, out) →
      encodedAs i ∧ ∃ p, exec i s = .next { s with a := BitVec.ofNat 8 r, p := p, cycles := s.cycles + 2 } ∧ written p) ∧
    (i.operand ≠ .accumulator →
      shiftOf i.mnemonic (s.busByte (eaOf i.operand s)) (getFlag .c s.p) = some (r, out) →
      encodedAs i ∧ ∃ p, exec i s
          = .next { perform [.read (eaOf i.operand s), .write (eaOf i.operand s) (BitVec.ofNat 8 r)] s with
              p := p, cycles := s.cycles + costOf i s } ∧ written p)

/-- Rules R180, R181: INC and DEC in every mode complete: one read and then one write of the effective address, wrapping, Z and N
from the new byte; C and V are not touched. -/
def Obligations.IncDecOfMemoryReadThenWrite : Prop :=
  ∀ (i : Instr) (s : State),
    let ea := eaOf i.operand s
    let modified (r : Byte) : Prop :=
      encodedAs i ∧ ∃ p, exec i s = .next { perform [.read ea, .write ea r] s with p := p, cycles := s.cycles + costOf i s }
        ∧ znOf r p ∧ flagsKept [.z, .n] s.p p
    (i.mnemonic = .inc → modified (s.busByte ea + 1)) ∧ (i.mnemonic = .dec → modified (s.busByte ea - 1))

/-- Rules R182 to R185: INX, INY, DEX, DEY complete, wrap, and set Z and N from the new value. -/
def Obligations.IndexRegistersCountAndWrap : Prop :=
  ∀ s : State,
    (∀ i ∈ [Instr.inx, .iny, .dex, .dey], encodedAs i) ∧
    (∃ p, exec .inx s = .next { s with x := s.x + 1, p := p, cycles := s.cycles + 2 }
      ∧ znOf (s.x + 1) p ∧ flagsKept [.z, .n] s.p p) ∧
    (∃ p, exec .iny s = .next { s with y := s.y + 1, p := p, cycles := s.cycles + 2 }
      ∧ znOf (s.y + 1) p ∧ flagsKept [.z, .n] s.p p) ∧
    (∃ p, exec .dex s = .next { s with x := s.x - 1, p := p, cycles := s.cycles + 2 }
      ∧ znOf (s.x - 1) p ∧ flagsKept [.z, .n] s.p p) ∧
    (∃ p, exec .dey s = .next { s with y := s.y - 1, p := p, cycles := s.cycles + 2 }
      ∧ znOf (s.y - 1) p ∧ flagsKept [.z, .n] s.p p)

/-- Rules R190 to R198: the eight branches complete, go to `next + sext(b1)` exactly when their flag has the value they ask for,
write no flag, and cost 2, 3 or 4 cycles. -/
def Obligations.BranchesGoWhereTheirFlagSays : Prop :=
  ∀ (s : State) (d : Byte),
    (∀ i ∈ [Instr.bpl d, .bmi d, .bvc d, .bvs d, .bcc d, .bcs d, .bne d, .beq d], encodedAs i) ∧
    exec (.bpl d) s = .next (afterBranch d (!getFlag .n s.p) s) ∧ exec (.bmi d) s = .next (afterBranch d (getFlag .n s.p) s) ∧
    exec (.bvc d) s = .next (afterBranch d (!getFlag .v s.p) s) ∧ exec (.bvs d) s = .next (afterBranch d (getFlag .v s.p) s) ∧
    exec (.bcc d) s = .next (afterBranch d (!getFlag .c s.p) s) ∧ exec (.bcs d) s = .next (afterBranch d (getFlag .c s.p) s) ∧
    exec (.bne d) s = .next (afterBranch d (!getFlag .z s.p) s) ∧ exec (.beq d) s = .next (afterBranch d (getFlag .z s.p) s)

/-- Rules R200, R201: PHA and PHP complete: one write at the stack address, SP one lower; PHP's copy has B and U set and P itself
is unchanged. -/
def Obligations.PhaAndPhpPushOneByte : Prop :=
  ∀ s : State,
    (∀ i ∈ [Instr.pha, .php], encodedAs i) ∧
    exec .pha s = .next { memWrite (0x0100 + zext s.sp) s.a s with sp := s.sp - 1, cycles := s.cycles + 3 } ∧
    ∃ copy : Byte, exec .php s
        = .next { memWrite (0x0100 + zext s.sp) copy s with sp := s.sp - 1, cycles := s.cycles + 3 }
      ∧ getFlag .b copy = true ∧ getFlag .u copy = true ∧ flagsKept [.b, .u] s.p copy

/-- Rules R202, R203: PLA and PLP complete: SP one higher, the byte above goes to A with Z and N from it, or to P with B cleared
and U set. -/
def Obligations.PlaAndPlpPullOneByte : Prop :=
  ∀ s : State,
    (∀ i ∈ [Instr.pla, .plp], encodedAs i) ∧
    (∃ p, exec .pla s = .next { s with
          a := stackByte (s.sp + 1) s, sp := s.sp + 1, p := p, cycles := s.cycles + 4 }
      ∧ znOf (stackByte (s.sp + 1) s) p ∧ flagsKept [.z, .n] s.p p) ∧
    ∃ p, exec .plp s = .next { s with sp := s.sp + 1, p := p, cycles := s.cycles + 4 }
      ∧ getFlag .b p = false ∧ getFlag .u p = true ∧ flagsKept [.b, .u] (stackByte (s.sp + 1) s) p

/-- Rule R204: JSR completes: it pushes `next - 1`, high byte first, and goes to its target, which it does not read. -/
def Obligations.JsrPushesItsLastByteAddress : Prop :=
  ∀ (s : State) (w : Word),
    (∀ i ∈ [Instr.jsrAbs w], encodedAs i) ∧
    exec (.jsrAbs w) s = .next
      { perform [.write (0x0100 + zext s.sp) (hiByte (s.pc - 1)), .write (0x0100 + zext (s.sp - 1)) (loByte (s.pc - 1))] s
        with sp := s.sp - 2, pc := w, cycles := s.cycles + 6 }

/-- Rule R205: RTS completes: it pulls an address, low byte first, and goes one past it. -/
def Obligations.RtsReturnsPastThePulledAddress : Prop :=
  ∀ s : State, encodedAs .rts ∧ exec .rts s = .next { s with
    sp := s.sp + 2, pc := wordOf (stackByte (s.sp + 1) s) (stackByte (s.sp + 2) s) + 1, cycles := s.cycles + 6 }

/-- Rules R204, R205: RTS, run after a JSR that left the stack as it was, returns to the instruction after the JSR with SP as it
was before the call. -/
def Obligations.RtsUndoesJsr : Prop :=
  ∀ (s t : State) (w : Word), exec (.jsrAbs w) s = .next t →
    ∃ u, exec .rts t = .next u ∧ u.pc = s.pc ∧ u.sp = s.sp ∧ u.a = s.a ∧ u.x = s.x ∧ u.y = s.y ∧ u.p = s.p

/-- Rule R206: RTI completes: it pulls P with B cleared and U set, then PC, low byte first, adding nothing. -/
def Obligations.RtiPullsStatusAndPc : Prop :=
  ∀ s : State, encodedAs .rti ∧ ∃ p, exec .rti s = .next { s with
      sp := s.sp + 3, p := p, pc := wordOf (stackByte (s.sp + 2) s) (stackByte (s.sp + 3) s), cycles := s.cycles + 6 }
    ∧ getFlag .b p = false ∧ getFlag .u p = true ∧ flagsKept [.b, .u] (stackByte (s.sp + 1) s) p

/-- Rules R210, R211: both forms of JMP complete; the indirect one reads its target's low byte at the pointer and its high byte
at the next address of the same page. -/
def Obligations.JumpsSetPc : Prop :=
  ∀ (s : State) (w : Word),
    (∀ i ∈ [Instr.jmpAbs w, .jmpInd w], encodedAs i) ∧
    exec (.jmpAbs w) s = .next { s with pc := w, cycles := s.cycles + 3 } ∧
    (let highAt : Word := if w.toNat % 256 = 255 then w - 255 else w + 1
     exec (.jmpInd w) s = .next { perform [.read w, .read highAt] s with
       pc := wordOf (s.busByte w) ((s.afterRead w).busByte highAt), cycles := s.cycles + 5 })

/-- Rules R212 to R218: the flag instructions complete and write their one flag only. -/
def Obligations.FlagInstructionsWriteOneFlag : Prop :=
  ∀ (s : State),
    ∀ x ∈ [(Instr.clc, Flag.c, false), (.sec, .c, true), (.cli, .i, false), (.sei, .i, true), (.cld, .d, false),
      (.sed, .d, true), (.clv, .v, false)],
    encodedAs x.1 ∧ ∃ p, exec x.1 s = .next { s with p := p, cycles := s.cycles + 2 } ∧ getFlag x.2.1 p = x.2.2 ∧ flagsKept [x.2.1] s.p p

/-- Rules R219, R220: NOP completes and changes only the cycles (PC is already past it); the halt completes and changes only `run`
and the cycles, and every later step is halted. -/
def Obligations.NopAndHaltTouchNothingElse : Prop :=
  ∀ s : State, encodedAs .nop ∧ encodedAs .brk ∧ exec .nop s = .next { s with cycles := s.cycles + 2 } ∧
    (let t := { s with run := .halted, cycles := s.cycles + 7 }
     exec .brk s = .next t ∧ (s.initialised = true → s.fault = none → sessionStep t = (t, .halted)))

/-! ### Frames, over all instructions -/

/-- Rule R52 and the instruction rules: an instruction that neither stores at its effective address nor pushes leaves every byte of
RAM as it was; and all that the host declared of the delegates, which is the model's own state (DESIGN CHOICE, log 5). -/
def Obligations.FormsThatStoreNothingLeaveMemory : Prop :=
  ∀ (i : Instr) (s t : State), storesAtEa i = false → pushes i = false → exec i s = .next t →
    (∀ k, t.ramByte k = s.ramByte k) ∧ (∀ d u, (t.delegate d).declared? u = (s.delegate d).declared? u)

/-- Rule R120: a form that stores leaves every byte but the one at its effective address as it was: every other RAM cell; and all
that the host declared of the delegates elsewhere, which is the model's own state (DESIGN CHOICE, log 5). -/
def Obligations.StoringFormsChangeOneByte : Prop :=
  ∀ (i : Instr) (s t : State), storesAtEa i = true → exec i s = .next t →
    (∀ k, route (eaOf i.operand s) ≠ .ram k → t.ramByte k = s.ramByte k) ∧
    (∀ d u, route (eaOf i.operand s) ≠ .delegate d u → (t.delegate d).declared? u = (s.delegate d).declared? u)

/-- Rules R121, R200, R201, R204: a form that pushes leaves every byte but those it pushes as it was. -/
def Obligations.PushingFormsChangeTheirStackBytes : Prop :=
  ∀ (i : Instr) (s t : State), pushes i = true → exec i s = .next t →
    (∀ k, k ≠ 0x100 + s.sp.toNat → (i.mnemonic = .jsr → k ≠ 0x100 + (s.sp - 1).toNat) → t.ramByte k = s.ramByte k) ∧
    (∀ d, t.delegate d = s.delegate d)

/-- Rules R21 to R24: the lists of the instructions that write A, X, Y and SP are complete. -/
def Obligations.RegistersHaveOnlyTheirWriters : Prop :=
  ∀ (i : Instr) (s t : State), exec i s = .next t →
    (t.a ≠ s.a → i.mnemonic ∈ [Mnemonic.lda, .txa, .tya, .pla, .adc, .sbc, .and, .ora, .eor]
      ∨ (i.mnemonic ∈ [Mnemonic.asl, .lsr, .rol, .ror] ∧ i.operand = .accumulator)) ∧
    (t.x ≠ s.x → i.mnemonic ∈ [Mnemonic.ldx, .tax, .tsx, .inx, .dex]) ∧
    (t.y ≠ s.y → i.mnemonic ∈ [Mnemonic.ldy, .tay, .iny, .dey]) ∧
    (t.sp ≠ s.sp → i.mnemonic ∈ [Mnemonic.txs, .pha, .php, .pla, .plp, .jsr, .rts, .rti])

/-- Rules R27 to R33: the lists of the instructions that write each flag are complete. -/
def Obligations.FlagsHaveOnlyTheirWriters : Prop :=
  ∀ (i : Instr) (s t : State), exec i s = .next t → i.mnemonic ∉ [Mnemonic.plp, .rti] →
    let changed (f : Flag) : Prop := getFlag f t.p ≠ getFlag f s.p
    let setZNUsers := [Mnemonic.lda, .ldx, .ldy, .tax, .tay, .txa, .tya, .tsx, .adc, .sbc, .and, .ora, .eor, .asl, .lsr,
      .rol, .ror, .inc, .dec, .inx, .iny, .dex, .dey, .pla]
    (changed .c → i.mnemonic ∈ [Mnemonic.adc, .sbc, .cmp, .cpx, .cpy, .asl, .lsr, .rol, .ror, .clc, .sec]) ∧
    (changed .z → i.mnemonic ∈ setZNUsers ++ [.cmp, .cpx, .cpy, .bit]) ∧
    (changed .n → i.mnemonic ∈ setZNUsers ++ [.cmp, .cpx, .cpy, .bit]) ∧
    (changed .i → i.mnemonic ∈ [Mnemonic.cli, .sei]) ∧
    (changed .d → i.mnemonic ∈ [Mnemonic.cld, .sed]) ∧
    (changed .v → i.mnemonic ∈ [Mnemonic.adc, .sbc, .bit, .clv]) ∧
    ¬ changed .b ∧ ¬ changed .u

/-- Rules R35, R36, R37, R105: an instruction changes PC only if it is a branch, JMP, JSR, RTS or RTI, `run` only if it is the halt,
and never the fault mark, the interrupt requests or the session mark. -/
def Obligations.ControlStateHasOnlyItsWriters : Prop :=
  ∀ (i : Instr) (s t : State), exec i s = .next t →
    (t.pc ≠ s.pc → i.mnemonic ∈ [Mnemonic.bpl, .bmi, .bvc, .bvs, .bcc, .bcs, .bne, .beq, .jmp, .jsr, .rts, .rti]) ∧
    (t.run ≠ s.run → i.mnemonic = .brk ∧ t.run = .halted) ∧
    t.fault = s.fault ∧ t.nmiPending = s.nmiPending ∧ t.irqLine = s.irqLine ∧ t.initialised = s.initialised

/-- Rules R30, R31: the stored D, B and U change no result: run with one of them set otherwise, every instruction leaves the same
state but for that bit of P. PHP, which shows D, is left out for D. -/
def Obligations.DecimalBreakAndUnusedChangeNoResult : Prop :=
  ∀ (i : Instr) (s t : State) (f : Flag) (b : Bool), f ∈ [Flag.d, .b, .u] → (f = .d → i.mnemonic ≠ .php) →
    exec i s = .next t →
    ∃ t', exec i { s with p := putFlag f b s.p } = .next t'
      ∧ { t' with p := putFlag f false t'.p } = { t with p := putFlag f false t.p }

/-! ### Steps, faults and interrupts -/

/-- Rules R101, R102, R104: when a step fetches, and the bytes it fetches at PC are those of an instruction, the step is that
instruction's `exec` at the state after the fetch: PC past the instruction, each byte read once, nothing else changed. -/
def Obligations.StepRunsTheDecodedInstruction : Prop :=
  ∀ (s : State) (i : Instr), fetches s → (fetchOperands (encode i).length s).1 = encode i →
    let u := (fetchOperands (encode i).length s).2
    step s = exec i u ∧ u.pc = s.pc + BitVec.ofNat 16 (encode i).length ∧ u.ram = s.ram ∧
    u = { perform ((List.range (encode i).length).map fun k => .read (s.pc + BitVec.ofNat 16 k)) s with pc := u.pc }

/-- Rule R236: the conditions at the start of a step decide it in this order: not initialised, fault recorded, halted, NMI, IRQ,
else one instruction. -/
def Obligations.StepDecidesInPriorityOrder : Prop :=
  ∀ s : State,
    (s.initialised = false → sessionStep s = (s, .refused .notInitialised)) ∧
    (s.initialised = true → ∀ f, s.fault = some f → sessionStep s = (s, .fault f)) ∧
    (s.initialised = true → s.fault = none → s.run = .halted → sessionStep s = (s, .halted)) ∧
    (s.initialised = true → s.fault = none → s.run = .running → s.nmiPending = true →
      sessionStep s = (interruptEntry .nmi s, .interrupt .nmi)) ∧
    (s.initialised = true → s.fault = none → s.run = .running → s.nmiPending = false → s.irqLine = true →
      getFlag .i s.p = false → sessionStep s = (interruptEntry .irq s, .interrupt .irq)) ∧
    (fetches s → sessionStep s = runInstruction s)

/-- Rule R232: a recorded fault stays: every later step answers it and changes nothing, and no host operation, reset included,
clears it. -/
def Obligations.FaultPersistsForTheSession : Prop :=
  ∀ (s : State) (f : Fault), s.initialised = true → s.fault = some f →
    sessionStep s = (s, .fault f) ∧ step s = .fault f ∧
    ∀ (op : HostOp) (t : State), hostDo op s = .next t → t.fault = some f

/-- Rules R35, R233, R234, R250: a halted machine stays as it is; `assert_nmi` and `set_irq` record their requests in it and do not
wake it, and no host operation but reset makes it run. That its step answers a next state, the same one, where rule R250 says that
it returns `Halted`, is the model's choice (DESIGN CHOICE, log 2). -/
def Obligations.OnlyResetLeavesHalted : Prop :=
  ∀ s : State, s.initialised = true → s.fault = none → s.run = .halted →
    (sessionStep s = (s, .halted) ∧ step s = .next s) ∧
    (let t := { s with nmiPending := true };
      hostDo .assertNmi s = .next t ∧ sessionStep t = (t, .halted) ∧ step t = .next t) ∧
    (∀ level : Bool, let t := { s with irqLine := level };
      hostDo (.setIrq level) s = .next t ∧ sessionStep t = (t, .halted) ∧ step t = .next t) ∧
    (hostDo .reset s = .next (hostReset s) ∧ (hostReset s).run = .running) ∧
    ∀ (op : HostOp) (t : State), op ≠ .reset → hostDo op s = .next t → t.run = .halted

/-- Rule R237: interrupt entry pushes PCH, PCL and P with B clear and U set, sets I, clears the NMI latch for an NMI only, loads PC
from the vector, low byte first, and costs 7 cycles; D, A, X and Y are unchanged. -/
def Obligations.InterruptEntrySavesAndVectors : Prop :=
  ∀ (s : State) (kind : InterruptKind),
    let vector : Word := match kind with | .nmi => 0xFFFA | .irq => 0xFFFE
    ∃ copy p : Byte,
      let w := perform [.write (0x0100 + zext s.sp) (hiByte s.pc), .write (0x0100 + zext (s.sp - 1)) (loByte s.pc),
        .write (0x0100 + zext (s.sp - 2)) copy] s
      interruptEntry kind s = { perform [.read vector, .read (vector + 1)] w with
        sp := s.sp - 3, p := p, pc := wordOf (w.busByte vector) ((w.afterRead vector).busByte (vector + 1))
        nmiPending := (match kind with | .nmi => false | .irq => s.nmiPending), cycles := s.cycles + 7 } ∧
      getFlag .b copy = false ∧ getFlag .u copy = true ∧ flagsKept [.b, .u] s.p copy ∧
      getFlag .i p = true ∧ flagsKept [.i] s.p p

/-- Rules R206, R239: RTI at the handler's start undoes an interrupt entry: A, X, Y, SP, PC and P are those before the entry, but B is
0 and U is 1. -/
def Obligations.RtiUndoesInterruptEntry : Prop :=
  ∀ (s : State) (kind : InterruptKind), ∃ t, exec .rti (interruptEntry kind s) = .next t ∧
    t.pc = s.pc ∧ t.sp = s.sp ∧ t.a = s.a ∧ t.x = s.x ∧ t.y = s.y ∧
    getFlag .b t.p = false ∧ getFlag .u t.p = true ∧ flagsKept [.b, .u] s.p t.p

/-- Rules R230, R236: a step of an initialised machine with no fault recorded answers a next state, but for one case: the byte it
fetches is one of the 105 of rule R85, and then the fault names that byte and its address. That an interrupt dispatch and the step
of a halted machine answer a next state is the model's choice (DESIGN CHOICE, log 1 and log 2). -/
def Obligations.OnlyUndocumentedBytesStopAStep : Prop :=
  ∀ s : State, s.initialised = true → s.fault = none →
    (∃ t, step s = .next t) ∨
    (fetches s ∧ (s.busByte s.pc).toNat ∈ undocumentedOpcodes ∧
      step s = .fault (.unimplementedOpcode (s.busByte s.pc) s.pc))

/-- Rules R51, R52: every step keeps the memories in canonical form: RAM indexes rising and below 2048, the delegates' declared
contents rising and at target addresses of their own. -/
def Obligations.EveryStepKeepsMemoriesCanonical : Prop :=
  ∀ s t : State, s.wf = true → step s = .next t → t.wf = true

/-- Rule R41, with the canonical form: the reset state meets the invariant. -/
def Obligations.ResetMeetsTheMemoryInvariant : Prop := State.reset.wf = true

/-- Every host operation keeps the memories in canonical form. -/
def Obligations.EveryHostOperationKeepsMemoriesCanonical : Prop :=
  ∀ (op : HostOp) (s t : State), s.wf = true → hostDo op s = .next t → t.wf = true

/-- Rules R39, R268: nothing depends on the cycle counter: started with the counter `n` higher, a step has the same outcome and
leaves the same state but for the counter, `n` higher. -/
def Obligations.CycleCounterAffectsNothing : Prop :=
  ∀ (s : State) (n : Nat),
    sessionStep { s with cycles := s.cycles + n }
      = ({ (sessionStep s).1 with cycles := (sessionStep s).1.cycles + n }, (sessionStep s).2)

/-! ### Reset and the host -/

/-- Rules R260, R261, R262: reset writes A, X, Y, P, SP, `run`, the NMI latch and the session mark, loads PC from 0xFFFC and 0xFFFD,
and changes nothing else: not RAM, the fault, the IRQ line or the cycles; it makes those two reads and no other access. -/
def Obligations.ResetWritesExactlyItsRegisters : Prop :=
  ∀ s : State, hostReset s = { perform [.read 0xFFFC, .read 0xFFFD] s with
    a := 0, x := 0, y := 0, p := 0x04, sp := 0xFD, run := .running, nmiPending := false, initialised := true
    pc := wordOf (s.busByte 0xFFFC) ((s.afterRead 0xFFFC).busByte 0xFFFD) }

/-- Rule R41: the state the host starts from is what the first reset leaves of a newly constructed session. -/
def Obligations.ResetStateIsTheFirstReset : Prop :=
  State.reset = hostReset State.construct ∧ State.reset.a = 0x00 ∧ State.reset.x = 0x00 ∧ State.reset.y = 0x00 ∧
  State.reset.p = 0x04 ∧ State.reset.sp = 0xFD ∧ State.reset.run = .running ∧ State.reset.fault = none ∧
  State.reset.nmiPending = false ∧ State.reset.irqLine = false ∧ State.reset.initialised = true ∧ State.reset.cycles = 0 ∧
  ∀ k, State.reset.ramByte k = Config.ramInit k

/-- Rules R38, R251, R263: before the first reset a step, every preset, `read_state` and `trace` are refused, and the step changes
nothing; `load` is allowed and answers a next state, `peek` is allowed and shows the memory, and only reset makes the session
initialised. -/
def Obligations.NothingRunsBeforeTheFirstReset : Prop :=
  ∀ s : State, s.initialised = false →
    sessionStep s = (s, .refused .notInitialised) ∧ step s = .refused .notInitialised ∧
    (∀ r v, hostPreset r v s = .refused .notInitialised) ∧ (∀ v, hostPresetPC v s = .refused .notInitialised) ∧
    hostReadState s = .error .notInitialised ∧ trace s = .error .notInitialised ∧
    (∀ base bytes, ∃ t, hostDo (.load base bytes) s = .next t ∧ t = hostLoad base bytes s ∧ t.initialised = false) ∧
    (∀ a k, route a = .ram k → hostPeek a s = s.ramByte k) ∧
    ∀ (op : HostOp) (t : State), hostDo op s = .next t → (t.initialised = true ↔ op = .reset)

/-- Rule R74: bytes loaded into RAM are read back at their addresses, for a load that stays in RAM and does not overtake itself. -/
def Obligations.LoadedBytesAreReadBack : Prop :=
  ∀ (s : State) (base : Word) (bytes : List Byte) (k : Nat) (v : Byte), base.toNat + bytes.length ≤ 0x2000 →
    bytes.length ≤ 2048 → bytes[k]? = some v → (hostLoad base bytes s).busByte (base + BitVec.ofNat 16 k) = v

/-- Rules R246, R248, R249: the operand rendering of every addressing mode, in the state with PC after the instruction. The value
suffix ` = ` v is left out exactly where `read_has_side_effect` of the owning delegate is true at the routed address, and RAM never
is; v is what `Peek` shows (rule R66). JMP indirect shows its target only where neither pointer byte's read may act; JMP and JSR
show no value; the pointers of the indexed indirect modes are in RAM and always shown. The line of an instruction at PC carries
that rendering. -/
def Obligations.TracerHidesSideEffectingValues : Prop :=
  ∀ (s : State) (m : Mnemonic) (w : Word) (z : Byte),
    let highAt : Word := if w.toNat % 256 = 255 then w - 255 else w + 1
    let shown (ea : Word) : Text := if readMayAct ea then [] else " = ".toList ++ hex2 (s.peek ea)
    let pointer (p : Byte) : Word := wordOf (s.ramByte p.toNat) (s.ramByte (p + 1).toNat)
    let render (o : Operand) : Text := operandRendering m o s
    (∀ a k, route a = .ram k → readMayAct a = false ∧ s.peek a = s.ramByte k) ∧
    (∀ a d u, route a = .delegate d u → readMayAct a = Config.readHasSideEffect d u ∧
      s.peek a = (match (s.delegate d).declared? u with
        | some b => b
        | none => Config.delegatePeek d (s.delegate d).events u)) ∧
    render .implied = [] ∧ render .accumulator = "A".toList ∧ render (.immediate z) = "#$".toList ++ hex2 z ∧
    render (.zeroPage z) = "$".toList ++ hex2 z ++ shown (zext z) ∧
    render (.zeroPageX z) = "$".toList ++ hex2 z ++ ",X @ ".toList ++ hex2 (z + s.x) ++ shown (zext (z + s.x)) ∧
    render (.zeroPageY z) = "$".toList ++ hex2 z ++ ",Y @ ".toList ++ hex2 (z + s.y) ++ shown (zext (z + s.y)) ∧
    (m ≠ .jmp → m ≠ .jsr → render (.absolute w) = "$".toList ++ hex4 w ++ shown w) ∧
    (m = .jmp ∨ m = .jsr → render (.absolute w) = "$".toList ++ hex4 w) ∧
    render (.absoluteX w) = "$".toList ++ hex4 w ++ ",X @ ".toList ++ hex4 (w + zext s.x) ++ shown (w + zext s.x) ∧
    render (.absoluteY w) = "$".toList ++ hex4 w ++ ",Y @ ".toList ++ hex4 (w + zext s.y) ++ shown (w + zext s.y) ∧
    render (.indirect w) = "($".toList ++ hex4 w ++ ")".toList
      ++ (if readMayAct w ∨ readMayAct highAt then [] else " = ".toList ++ hex4 (wordOf (s.peek w) (s.peek highAt))) ∧
    (let ea := pointer (z + s.x);
      render (.indirectX z) = "($".toList ++ hex2 z ++ ",X) @ ".toList ++ hex2 (z + s.x) ++ " = ".toList ++ hex4 ea
        ++ shown ea) ∧
    (let ea := pointer z + zext s.y;
      render (.indirectY z) = "($".toList ++ hex2 z ++ "),Y = ".toList ++ hex4 (pointer z) ++ " @ ".toList ++ hex4 ea
        ++ shown ea) ∧
    render (.relative z) = "$".toList ++ hex4 (s.pc + sext z) ∧
    ∀ i : Instr, s.initialised = true → peekBytes (encode i).length s.pc s = encode i →
      trace s = .ok (traceLayout s (encode i) (mnemonicText i.mnemonic)
        (operandRendering i.mnemonic i.operand { s with pc := s.pc + BitVec.ofNat 16 (encode i).length }))

/-- Rules R233, R234, R251, R252: what each host input writes, and that it writes nothing else: `assert_nmi` the NMI latch,
`set_irq` the IRQ line, `cancel` the run state, and after the first reset a preset its one register, as given; `read_state` shows
the registers. -/
def Obligations.HostInputsWriteTheirOwnState : Prop :=
  ∀ s : State,
    hostDo .assertNmi s = .next { s with nmiPending := true } ∧
    (∀ level, hostDo (.setIrq level) s = .next { s with irqLine := level }) ∧
    hostDo .cancel s = .next { s with run := .halted } ∧
    (s.initialised = true → ∀ v : Byte,
      hostDo (.preset .a v) s = .next { s with a := v } ∧ hostDo (.preset .x v) s = .next { s with x := v } ∧
      hostDo (.preset .y v) s = .next { s with y := v } ∧ hostDo (.preset .sp v) s = .next { s with sp := v } ∧
      hostDo (.preset .p v) s = .next { s with p := v }) ∧
    (s.initialised = true → ∀ w : Word, hostDo (.presetPC w) s = .next { s with pc := w }) ∧
    (s.initialised = true →
      hostReadState s = .ok ⟨s.a, s.x, s.y, s.sp, s.p, s.pc, s.run, s.fault, s.cycles⟩)
end

