-- ==== Sys2Proof/Laws/Decode.lean ====
section
/-! SUPPORT. What the decoder and the byte-order helpers do, once: each decode lemma covers one instruction layout of rule
R80, so that a proof about an instruction gives its table row and its arm and nothing else. -/

namespace Sys2Proof

theorem wordOf_eq (lo hi : Byte) : wordOf lo hi = hi ++ lo := rfl

@[simp] theorem wordOf_toNat (lo hi : Byte) : (wordOf lo hi).toNat = lo.toNat + 256 * hi.toNat := by
  unfold wordOf
  rw [BitVec.toNat_append, Nat.shiftLeft_eq, Nat.mul_comm, ← Nat.two_pow_add_eq_or_of_lt lo.isLt]
  omega

@[simp] theorem loByte_toNat (w : Word) : (loByte w).toNat = w.toNat % 256 := by simp [loByte]

@[simp] theorem hiByte_toNat (w : Word) : (hiByte w).toNat = w.toNat / 256 := by
  have := w.isLt
  simp only [hiByte, BitVec.extractLsb'_toNat, Nat.shiftRight_eq_div_pow]
  omega

@[simp] theorem zext_toNat (b : Byte) : (zext b).toNat = b.toNat := by
  have := b.isLt
  simp only [zext, BitVec.zeroExtend, BitVec.toNat_setWidth]
  omega

/-- Splitting a word into its bytes and joining them gives the word back. -/
@[simp] theorem wordOf_loByte_hiByte (w : Word) : wordOf (loByte w) (hiByte w) = w := by
  apply BitVec.eq_of_toNat_eq
  rw [wordOf_toNat, loByte_toNat, hiByte_toNat]
  omega

@[simp] theorem loByte_wordOf (lo hi : Byte) : loByte (wordOf lo hi) = lo := by
  have := lo.isLt
  apply BitVec.eq_of_toNat_eq
  rw [loByte_toNat, wordOf_toNat]
  omega

@[simp] theorem hiByte_wordOf (lo hi : Byte) : hiByte (wordOf lo hi) = hi := by
  have := lo.isLt
  apply BitVec.eq_of_toNat_eq
  rw [hiByte_toNat, wordOf_toNat]
  omega

@[simp] theorem zext_hiByte (b : Byte) : hiByte (zext b) = 0 := by
  have := b.isLt
  apply BitVec.eq_of_toNat_eq
  rw [hiByte_toNat, zext_toNat]
  show b.toNat / 256 = 0
  omega

/-- A high byte joined with another byte's zero extension. -/
theorem high_or_zext (p : Word) (x : Byte) : p &&& 0xFF00#16 ||| zext x = wordOf x (hiByte p) := by
  apply BitVec.eq_of_getLsbD_eq
  intro k hk
  simp only [wordOf, hiByte, zext, BitVec.zeroExtend, BitVec.getLsbD_or, BitVec.getLsbD_and, BitVec.getLsbD_append,
    BitVec.getLsbD_extractLsb', BitVec.getLsbD_setWidth]
  interval_cases k <;> simp

/-- Two addresses are on one page when their high bytes are equal. -/
theorem high_eq_iff (p q : Word) : p &&& 0xFF00#16 = q &&& 0xFF00#16 ↔ hiByte p = hiByte q := by
  have e : ∀ p : Word, p &&& 0xFF00#16 = wordOf 0 (hiByte p) := fun p => by
    rw [← high_or_zext]
    simp [zext]
  rw [e, e]
  exact ⟨fun h => by simpa using congrArg hiByte h, fun h => by rw [h]⟩

theorem Operand.bytes_length (o : Operand) : o.bytes.length = o.mode.operandBytes := by cases o <;> rfl

/-- Every instruction is a line the assembler accepts (rules R86, R89). -/
theorem Instr.wellFormed_true (i : Instr) : i.wellFormed = true := by cases i <;> rfl

/-- An instruction's opcode has its row in the table. -/
theorem opcodeRecord_map (i : Instr) :
    (opcodeRecord i.opcode).map (fun r => (r.code, r.mnemonic, r.mode, r.length))
      = some (i.opcode, i.mnemonic, i.operand.mode, 1 + i.operand.mode.operandBytes) := by
  cases i <;>
    (dsimp only [Instr.opcode, Instr.mnemonic, Instr.operand, Operand.mode, AddressingMode.operandBytes]; rfl)

/-- The row of an instruction, by its parts. -/
theorem opcodeRecord_opcode (i : Instr) : ∃ r, opcodeRecord i.opcode = some r ∧ r.code = i.opcode
    ∧ r.mnemonic = i.mnemonic ∧ r.mode = i.operand.mode ∧ r.length = 1 + i.operand.mode.operandBytes := by
  obtain ⟨r, hr, he⟩ := Option.map_eq_some_iff.mp (opcodeRecord_map i)
  simp only [Prod.mk.injEq] at he
  exact ⟨r, hr, he.1, he.2.1, he.2.2.1, he.2.2.2⟩

/-- An instruction's opcode with its operand bytes, whatever follows them, is that instruction. -/
theorem decodeOpcode_opcode (i : Instr) (rest : List Byte) :
    decodeOpcode i.opcode ((i.operand.bytes ++ rest).getD 0 0) ((i.operand.bytes ++ rest).getD 1 0) = some i := by
  cases i <;>
    (simp only [Instr.opcode, Instr.operand, Operand.bytes, List.cons_append, List.nil_append, List.getD_cons_zero,
      List.getD_cons_succ]
     first
       | rfl
       | (refine Eq.trans (b := some _) rfl ?_; rw [wordOf_loByte_hiByte]))

/-- What the decoder's table answers has the opcode asked for, and the operand bytes given. -/
theorem opcode_of_decodeOpcode {code b1 b2 : Byte} {i : Instr} (h : decodeOpcode code b1 b2 = some i) :
    i.opcode = code ∧ i.operand.bytes = [b1, b2].take i.operand.mode.operandBytes := by
  have hn : i.opcode.toNat = code.toNat / 16 * 16 + code.toNat % 16
      ∧ i.operand.bytes = [b1, b2].take i.operand.mode.operandBytes := by
    unfold decodeOpcode at h
    split at h
    all_goals first
      | (rename_i hh
         rw [hh]
         clear hh
         simp only [decodeRow0, decodeRow1, decodeRow2, decodeRow3, decodeRow4, decodeRow5, decodeRow6, decodeRow7,
           decodeRow8, decodeRow9, decodeRowA, decodeRowB, decodeRowC, decodeRowD, decodeRowE, decodeRowF] at h
         split at h
         all_goals first
           | (rename_i hl
              rw [hl]
              cases h
              exact ⟨rfl, by
                simp [Instr.operand, Operand.bytes, Operand.mode, AddressingMode.operandBytes]⟩)
           | cases h)
      | cases h
  refine ⟨?_, hn.2⟩
  apply BitVec.eq_of_toNat_eq
  omega

/-- Layout L1: an opcode alone. -/
theorem decode_layout1 {code : Byte} {r : OpcodeRecord} {i : Instr} (rest : List Byte) (hr : opcodeRecord code = some r)
    (hl : r.length = 1) (hi : ∀ b1 b2, decodeOpcode code b1 b2 = some i) : decode (code :: rest) = .ok (i, rest) := by
  simp only [decode, hr, hl, hi]
  simp

/-- Layout L2: an opcode and one operand byte. -/
theorem decode_layout2 {code b : Byte} {r : OpcodeRecord} {i : Instr} (rest : List Byte)
    (hr : opcodeRecord code = some r) (hl : r.length = 2) (hi : ∀ b2, decodeOpcode code b b2 = some i) :
    decode (code :: b :: rest) = .ok (i, rest) := by
  simp only [decode, hr, hl, List.getD_cons_zero, hi]
  simp

/-- Layout L3: an opcode and two operand bytes. -/
theorem decode_layout3 {code b1 b2 : Byte} {r : OpcodeRecord} {i : Instr} (rest : List Byte)
    (hr : opcodeRecord code = some r) (hl : r.length = 3) (hi : decodeOpcode code b1 b2 = some i) :
    decode (code :: b1 :: b2 :: rest) = .ok (i, rest) := by
  simp only [decode, hr, hl, List.getD_cons_zero, List.getD_cons_succ, hi]
  simp

/-- A byte with no table row decodes to nothing, by name. -/
theorem decode_none {code : Byte} (rest : List Byte) (hr : opcodeRecord code = none) :
    decode (code :: rest) = .error (.unimplementedOpcode code) := by simp only [decode, hr]

end Sys2Proof
end

