-- ==== Sys2Proof/Laws/Memory.lean ====
section
/-! SUPPORT. The laws of recorded memories: what a read gives after a write, and that writes keep the canonical form. -/

namespace Sys2Proof.Machine

@[simp] theorem Memory.get?_set_same (m : Memory) (k : Nat) (v : Byte) : Memory.get? (Memory.set m k v) k = some v := by
  induction m with
  | nil => simp [Memory.set, Memory.get?]
  | cons c m ih =>
    obtain ⟨a, b⟩ := c
    simp only [Memory.set]
    split
    · simp [Memory.get?]
    · split
      · simp [Memory.get?]
      · simp_all [Memory.get?]

theorem Memory.get?_set_other (m : Memory) {j k : Nat} (v : Byte) (h : j ≠ k) :
    Memory.get? (Memory.set m k v) j = Memory.get? m j := by
  induction m with
  | nil => simp [Memory.set, Memory.get?, h]
  | cons c m ih =>
    obtain ⟨a, b⟩ := c
    simp only [Memory.set]
    split
    · simp [Memory.get?, h]
    · split
      · rename_i hk
        subst hk
        simp [Memory.get?, h]
      · simp only [Memory.get?, ih]

theorem Memory.get?_set (m : Memory) (j k : Nat) (v : Byte) :
    Memory.get? (Memory.set m k v) j = if j = k then some v else Memory.get? m j := by
  split
  · rename_i h
    subst h
    simp
  · rename_i h
    exact Memory.get?_set_other m v h

/-- A write at a key within the bounds keeps the canonical form. -/
theorem Memory.wf_set {hi : Nat} (m : Memory) {lo k : Nat} (v : Byte) (hm : Memory.wf hi lo m = true) (hlo : lo ≤ k)
    (hhi : k < hi) : Memory.wf hi lo (Memory.set m k v) = true := by
  induction m generalizing lo with
  | nil => simp [Memory.set, Memory.wf, hlo, hhi]
  | cons c m ih =>
    obtain ⟨a, b⟩ := c
    simp only [Memory.wf, Bool.and_eq_true, decide_eq_true_eq] at hm
    obtain ⟨⟨h1, h2⟩, h3⟩ := hm
    simp only [Memory.set]
    split
    · simp only [Memory.wf, Bool.and_eq_true, decide_eq_true_eq]
      exact ⟨⟨hlo, hhi⟩, ⟨by omega, h2⟩, h3⟩
    · split
      · simp only [Memory.wf, Bool.and_eq_true, decide_eq_true_eq]
        exact ⟨⟨hlo, hhi⟩, by simp_all⟩
      · simp only [Memory.wf, Bool.and_eq_true, decide_eq_true_eq]
        exact ⟨⟨h1, h2⟩, ih h3 (by omega)⟩

/-- No key below the lower bound is listed. -/
theorem Memory.get?_below {hi : Nat} (m : Memory) {lo k : Nat} (hm : Memory.wf hi lo m = true) (hk : k < lo) :
    Memory.get? m k = none := by
  induction m generalizing lo with
  | nil => rfl
  | cons c m ih =>
    obtain ⟨a, b⟩ := c
    simp only [Memory.wf, Bool.and_eq_true, decide_eq_true_eq] at hm
    obtain ⟨⟨h1, -⟩, h3⟩ := hm
    simp only [Memory.get?]
    rw [if_neg (by omega)]
    exact ih h3 (by omega)

/-- Canonical memories that record the same bytes are the same list. -/
theorem Memory.ext_of_wf {hi : Nat} (m n : Memory) {lo : Nat} (hm : Memory.wf hi lo m = true)
    (hn : Memory.wf hi lo n = true) (h : ∀ k, Memory.get? m k = Memory.get? n k) : m = n := by
  induction m generalizing n lo with
  | nil =>
    cases n with
    | nil => rfl
    | cons c n => exact absurd (h c.1) (by simp [Memory.get?])
  | cons c m ih =>
    obtain ⟨a, b⟩ := c
    cases n with
    | nil => exact absurd (h a) (by simp [Memory.get?])
    | cons d n =>
      obtain ⟨a', b'⟩ := d
      simp only [Memory.wf, Bool.and_eq_true, decide_eq_true_eq] at hm hn
      obtain ⟨⟨h1, -⟩, h3⟩ := hm
      obtain ⟨⟨h4, -⟩, h6⟩ := hn
      have ha := h a
      have ha' := h a'
      simp only [Memory.get?, if_true] at ha ha'
      have haa : a = a' := by
        by_contra hne
        rcases Nat.lt_or_gt_of_ne hne with hlt | hgt
        · rw [if_neg hne, Memory.get?_below n h6 (by omega)] at ha
          exact absurd ha (by simp)
        · rw [if_neg (Ne.symm hne), Memory.get?_below m h3 (by omega)] at ha'
          exact absurd ha' (by simp)
      subst haa
      simp only [if_true, Option.some.injEq] at ha
      subst ha
      congr 1
      refine ih n h3 h6 fun k => ?_
      have hk := h k
      simp only [Memory.get?] at hk
      by_cases hka : k = a
      · rw [Memory.get?_below m h3 (by omega), Memory.get?_below n h6 (by omega)]
      · rwa [if_neg hka, if_neg hka] at hk

end Sys2Proof.Machine
end

