-- ==== Sys2Proof/Laws/State.lean ====
section
/-! SUPPORT. One lemma per field per update of State, each true by rfl, so that no proof unfolds a record update. -/

namespace Sys2Proof.Machine

variable (s : State)

@[simp] theorem State.setA_a (v : Byte) : (s.setA v).a = v := rfl
@[simp] theorem State.setA_x (v : Byte) : (s.setA v).x = s.x := rfl
@[simp] theorem State.setA_y (v : Byte) : (s.setA v).y = s.y := rfl
@[simp] theorem State.setA_p (v : Byte) : (s.setA v).p = s.p := rfl
@[simp] theorem State.setA_sp (v : Byte) : (s.setA v).sp = s.sp := rfl
@[simp] theorem State.setA_pc (v : Byte) : (s.setA v).pc = s.pc := rfl
@[simp] theorem State.setA_run (v : Byte) : (s.setA v).run = s.run := rfl
@[simp] theorem State.setA_fault (v : Byte) : (s.setA v).fault = s.fault := rfl
@[simp] theorem State.setA_nmiPending (v : Byte) : (s.setA v).nmiPending = s.nmiPending := rfl
@[simp] theorem State.setA_irqLine (v : Byte) : (s.setA v).irqLine = s.irqLine := rfl
@[simp] theorem State.setA_initialised (v : Byte) : (s.setA v).initialised = s.initialised := rfl
@[simp] theorem State.setA_cycles (v : Byte) : (s.setA v).cycles = s.cycles := rfl
@[simp] theorem State.setA_ram (v : Byte) : (s.setA v).ram = s.ram := rfl
@[simp] theorem State.setA_ppu (v : Byte) : (s.setA v).ppu = s.ppu := rfl
@[simp] theorem State.setA_io (v : Byte) : (s.setA v).io = s.io := rfl
@[simp] theorem State.setA_cart (v : Byte) : (s.setA v).cart = s.cart := rfl
@[simp] theorem State.setA_delegate (v : Byte) (d : DelegateId) : (s.setA v).delegate d = s.delegate d := by cases d <;> rfl
@[simp] theorem State.setX_a (v : Byte) : (s.setX v).a = s.a := rfl
@[simp] theorem State.setX_x (v : Byte) : (s.setX v).x = v := rfl
@[simp] theorem State.setX_y (v : Byte) : (s.setX v).y = s.y := rfl
@[simp] theorem State.setX_p (v : Byte) : (s.setX v).p = s.p := rfl
@[simp] theorem State.setX_sp (v : Byte) : (s.setX v).sp = s.sp := rfl
@[simp] theorem State.setX_pc (v : Byte) : (s.setX v).pc = s.pc := rfl
@[simp] theorem State.setX_run (v : Byte) : (s.setX v).run = s.run := rfl
@[simp] theorem State.setX_fault (v : Byte) : (s.setX v).fault = s.fault := rfl
@[simp] theorem State.setX_nmiPending (v : Byte) : (s.setX v).nmiPending = s.nmiPending := rfl
@[simp] theorem State.setX_irqLine (v : Byte) : (s.setX v).irqLine = s.irqLine := rfl
@[simp] theorem State.setX_initialised (v : Byte) : (s.setX v).initialised = s.initialised := rfl
@[simp] theorem State.setX_cycles (v : Byte) : (s.setX v).cycles = s.cycles := rfl
@[simp] theorem State.setX_ram (v : Byte) : (s.setX v).ram = s.ram := rfl
@[simp] theorem State.setX_ppu (v : Byte) : (s.setX v).ppu = s.ppu := rfl
@[simp] theorem State.setX_io (v : Byte) : (s.setX v).io = s.io := rfl
@[simp] theorem State.setX_cart (v : Byte) : (s.setX v).cart = s.cart := rfl
@[simp] theorem State.setX_delegate (v : Byte) (d : DelegateId) : (s.setX v).delegate d = s.delegate d := by cases d <;> rfl
@[simp] theorem State.setY_a (v : Byte) : (s.setY v).a = s.a := rfl
@[simp] theorem State.setY_x (v : Byte) : (s.setY v).x = s.x := rfl
@[simp] theorem State.setY_y (v : Byte) : (s.setY v).y = v := rfl
@[simp] theorem State.setY_p (v : Byte) : (s.setY v).p = s.p := rfl
@[simp] theorem State.setY_sp (v : Byte) : (s.setY v).sp = s.sp := rfl
@[simp] theorem State.setY_pc (v : Byte) : (s.setY v).pc = s.pc := rfl
@[simp] theorem State.setY_run (v : Byte) : (s.setY v).run = s.run := rfl
@[simp] theorem State.setY_fault (v : Byte) : (s.setY v).fault = s.fault := rfl
@[simp] theorem State.setY_nmiPending (v : Byte) : (s.setY v).nmiPending = s.nmiPending := rfl
@[simp] theorem State.setY_irqLine (v : Byte) : (s.setY v).irqLine = s.irqLine := rfl
@[simp] theorem State.setY_initialised (v : Byte) : (s.setY v).initialised = s.initialised := rfl
@[simp] theorem State.setY_cycles (v : Byte) : (s.setY v).cycles = s.cycles := rfl
@[simp] theorem State.setY_ram (v : Byte) : (s.setY v).ram = s.ram := rfl
@[simp] theorem State.setY_ppu (v : Byte) : (s.setY v).ppu = s.ppu := rfl
@[simp] theorem State.setY_io (v : Byte) : (s.setY v).io = s.io := rfl
@[simp] theorem State.setY_cart (v : Byte) : (s.setY v).cart = s.cart := rfl
@[simp] theorem State.setY_delegate (v : Byte) (d : DelegateId) : (s.setY v).delegate d = s.delegate d := by cases d <;> rfl
@[simp] theorem State.setP_a (v : Byte) : (s.setP v).a = s.a := rfl
@[simp] theorem State.setP_x (v : Byte) : (s.setP v).x = s.x := rfl
@[simp] theorem State.setP_y (v : Byte) : (s.setP v).y = s.y := rfl
@[simp] theorem State.setP_p (v : Byte) : (s.setP v).p = v := rfl
@[simp] theorem State.setP_sp (v : Byte) : (s.setP v).sp = s.sp := rfl
@[simp] theorem State.setP_pc (v : Byte) : (s.setP v).pc = s.pc := rfl
@[simp] theorem State.setP_run (v : Byte) : (s.setP v).run = s.run := rfl
@[simp] theorem State.setP_fault (v : Byte) : (s.setP v).fault = s.fault := rfl
@[simp] theorem State.setP_nmiPending (v : Byte) : (s.setP v).nmiPending = s.nmiPending := rfl
@[simp] theorem State.setP_irqLine (v : Byte) : (s.setP v).irqLine = s.irqLine := rfl
@[simp] theorem State.setP_initialised (v : Byte) : (s.setP v).initialised = s.initialised := rfl
@[simp] theorem State.setP_cycles (v : Byte) : (s.setP v).cycles = s.cycles := rfl
@[simp] theorem State.setP_ram (v : Byte) : (s.setP v).ram = s.ram := rfl
@[simp] theorem State.setP_ppu (v : Byte) : (s.setP v).ppu = s.ppu := rfl
@[simp] theorem State.setP_io (v : Byte) : (s.setP v).io = s.io := rfl
@[simp] theorem State.setP_cart (v : Byte) : (s.setP v).cart = s.cart := rfl
@[simp] theorem State.setP_delegate (v : Byte) (d : DelegateId) : (s.setP v).delegate d = s.delegate d := by cases d <;> rfl
@[simp] theorem State.setSP_a (v : Byte) : (s.setSP v).a = s.a := rfl
@[simp] theorem State.setSP_x (v : Byte) : (s.setSP v).x = s.x := rfl
@[simp] theorem State.setSP_y (v : Byte) : (s.setSP v).y = s.y := rfl
@[simp] theorem State.setSP_p (v : Byte) : (s.setSP v).p = s.p := rfl
@[simp] theorem State.setSP_sp (v : Byte) : (s.setSP v).sp = v := rfl
@[simp] theorem State.setSP_pc (v : Byte) : (s.setSP v).pc = s.pc := rfl
@[simp] theorem State.setSP_run (v : Byte) : (s.setSP v).run = s.run := rfl
@[simp] theorem State.setSP_fault (v : Byte) : (s.setSP v).fault = s.fault := rfl
@[simp] theorem State.setSP_nmiPending (v : Byte) : (s.setSP v).nmiPending = s.nmiPending := rfl
@[simp] theorem State.setSP_irqLine (v : Byte) : (s.setSP v).irqLine = s.irqLine := rfl
@[simp] theorem State.setSP_initialised (v : Byte) : (s.setSP v).initialised = s.initialised := rfl
@[simp] theorem State.setSP_cycles (v : Byte) : (s.setSP v).cycles = s.cycles := rfl
@[simp] theorem State.setSP_ram (v : Byte) : (s.setSP v).ram = s.ram := rfl
@[simp] theorem State.setSP_ppu (v : Byte) : (s.setSP v).ppu = s.ppu := rfl
@[simp] theorem State.setSP_io (v : Byte) : (s.setSP v).io = s.io := rfl
@[simp] theorem State.setSP_cart (v : Byte) : (s.setSP v).cart = s.cart := rfl
@[simp] theorem State.setSP_delegate (v : Byte) (d : DelegateId) : (s.setSP v).delegate d = s.delegate d := by cases d <;> rfl
@[simp] theorem State.setPC_a (v : Word) : (s.setPC v).a = s.a := rfl
@[simp] theorem State.setPC_x (v : Word) : (s.setPC v).x = s.x := rfl
@[simp] theorem State.setPC_y (v : Word) : (s.setPC v).y = s.y := rfl
@[simp] theorem State.setPC_p (v : Word) : (s.setPC v).p = s.p := rfl
@[simp] theorem State.setPC_sp (v : Word) : (s.setPC v).sp = s.sp := rfl
@[simp] theorem State.setPC_pc (v : Word) : (s.setPC v).pc = v := rfl
@[simp] theorem State.setPC_run (v : Word) : (s.setPC v).run = s.run := rfl
@[simp] theorem State.setPC_fault (v : Word) : (s.setPC v).fault = s.fault := rfl
@[simp] theorem State.setPC_nmiPending (v : Word) : (s.setPC v).nmiPending = s.nmiPending := rfl
@[simp] theorem State.setPC_irqLine (v : Word) : (s.setPC v).irqLine = s.irqLine := rfl
@[simp] theorem State.setPC_initialised (v : Word) : (s.setPC v).initialised = s.initialised := rfl
@[simp] theorem State.setPC_cycles (v : Word) : (s.setPC v).cycles = s.cycles := rfl
@[simp] theorem State.setPC_ram (v : Word) : (s.setPC v).ram = s.ram := rfl
@[simp] theorem State.setPC_ppu (v : Word) : (s.setPC v).ppu = s.ppu := rfl
@[simp] theorem State.setPC_io (v : Word) : (s.setPC v).io = s.io := rfl
@[simp] theorem State.setPC_cart (v : Word) : (s.setPC v).cart = s.cart := rfl
@[simp] theorem State.setPC_delegate (v : Word) (d : DelegateId) : (s.setPC v).delegate d = s.delegate d := by cases d <;> rfl
@[simp] theorem State.setRun_a (v : RunState) : (s.setRun v).a = s.a := rfl
@[simp] theorem State.setRun_x (v : RunState) : (s.setRun v).x = s.x := rfl
@[simp] theorem State.setRun_y (v : RunState) : (s.setRun v).y = s.y := rfl
@[simp] theorem State.setRun_p (v : RunState) : (s.setRun v).p = s.p := rfl
@[simp] theorem State.setRun_sp (v : RunState) : (s.setRun v).sp = s.sp := rfl
@[simp] theorem State.setRun_pc (v : RunState) : (s.setRun v).pc = s.pc := rfl
@[simp] theorem State.setRun_run (v : RunState) : (s.setRun v).run = v := rfl
@[simp] theorem State.setRun_fault (v : RunState) : (s.setRun v).fault = s.fault := rfl
@[simp] theorem State.setRun_nmiPending (v : RunState) : (s.setRun v).nmiPending = s.nmiPending := rfl
@[simp] theorem State.setRun_irqLine (v : RunState) : (s.setRun v).irqLine = s.irqLine := rfl
@[simp] theorem State.setRun_initialised (v : RunState) : (s.setRun v).initialised = s.initialised := rfl
@[simp] theorem State.setRun_cycles (v : RunState) : (s.setRun v).cycles = s.cycles := rfl
@[simp] theorem State.setRun_ram (v : RunState) : (s.setRun v).ram = s.ram := rfl
@[simp] theorem State.setRun_ppu (v : RunState) : (s.setRun v).ppu = s.ppu := rfl
@[simp] theorem State.setRun_io (v : RunState) : (s.setRun v).io = s.io := rfl
@[simp] theorem State.setRun_cart (v : RunState) : (s.setRun v).cart = s.cart := rfl
@[simp] theorem State.setRun_delegate (v : RunState) (d : DelegateId) : (s.setRun v).delegate d = s.delegate d := by cases d <;> rfl
@[simp] theorem State.setFault_a (v : Option Fault) : (s.setFault v).a = s.a := rfl
@[simp] theorem State.setFault_x (v : Option Fault) : (s.setFault v).x = s.x := rfl
@[simp] theorem State.setFault_y (v : Option Fault) : (s.setFault v).y = s.y := rfl
@[simp] theorem State.setFault_p (v : Option Fault) : (s.setFault v).p = s.p := rfl
@[simp] theorem State.setFault_sp (v : Option Fault) : (s.setFault v).sp = s.sp := rfl
@[simp] theorem State.setFault_pc (v : Option Fault) : (s.setFault v).pc = s.pc := rfl
@[simp] theorem State.setFault_run (v : Option Fault) : (s.setFault v).run = s.run := rfl
@[simp] theorem State.setFault_fault (v : Option Fault) : (s.setFault v).fault = v := rfl
@[simp] theorem State.setFault_nmiPending (v : Option Fault) : (s.setFault v).nmiPending = s.nmiPending := rfl
@[simp] theorem State.setFault_irqLine (v : Option Fault) : (s.setFault v).irqLine = s.irqLine := rfl
@[simp] theorem State.setFault_initialised (v : Option Fault) : (s.setFault v).initialised = s.initialised := rfl
@[simp] theorem State.setFault_cycles (v : Option Fault) : (s.setFault v).cycles = s.cycles := rfl
@[simp] theorem State.setFault_ram (v : Option Fault) : (s.setFault v).ram = s.ram := rfl
@[simp] theorem State.setFault_ppu (v : Option Fault) : (s.setFault v).ppu = s.ppu := rfl
@[simp] theorem State.setFault_io (v : Option Fault) : (s.setFault v).io = s.io := rfl
@[simp] theorem State.setFault_cart (v : Option Fault) : (s.setFault v).cart = s.cart := rfl
@[simp] theorem State.setFault_delegate (v : Option Fault) (d : DelegateId) : (s.setFault v).delegate d = s.delegate d := by cases d <;> rfl
@[simp] theorem State.setNmiPending_a (v : Bool) : (s.setNmiPending v).a = s.a := rfl
@[simp] theorem State.setNmiPending_x (v : Bool) : (s.setNmiPending v).x = s.x := rfl
@[simp] theorem State.setNmiPending_y (v : Bool) : (s.setNmiPending v).y = s.y := rfl
@[simp] theorem State.setNmiPending_p (v : Bool) : (s.setNmiPending v).p = s.p := rfl
@[simp] theorem State.setNmiPending_sp (v : Bool) : (s.setNmiPending v).sp = s.sp := rfl
@[simp] theorem State.setNmiPending_pc (v : Bool) : (s.setNmiPending v).pc = s.pc := rfl
@[simp] theorem State.setNmiPending_run (v : Bool) : (s.setNmiPending v).run = s.run := rfl
@[simp] theorem State.setNmiPending_fault (v : Bool) : (s.setNmiPending v).fault = s.fault := rfl
@[simp] theorem State.setNmiPending_nmiPending (v : Bool) : (s.setNmiPending v).nmiPending = v := rfl
@[simp] theorem State.setNmiPending_irqLine (v : Bool) : (s.setNmiPending v).irqLine = s.irqLine := rfl
@[simp] theorem State.setNmiPending_initialised (v : Bool) : (s.setNmiPending v).initialised = s.initialised := rfl
@[simp] theorem State.setNmiPending_cycles (v : Bool) : (s.setNmiPending v).cycles = s.cycles := rfl
@[simp] theorem State.setNmiPending_ram (v : Bool) : (s.setNmiPending v).ram = s.ram := rfl
@[simp] theorem State.setNmiPending_ppu (v : Bool) : (s.setNmiPending v).ppu = s.ppu := rfl
@[simp] theorem State.setNmiPending_io (v : Bool) : (s.setNmiPending v).io = s.io := rfl
@[simp] theorem State.setNmiPending_cart (v : Bool) : (s.setNmiPending v).cart = s.cart := rfl
@[simp] theorem State.setNmiPending_delegate (v : Bool) (d : DelegateId) : (s.setNmiPending v).delegate d = s.delegate d := by cases d <;> rfl
@[simp] theorem State.setIrqLine_a (v : Bool) : (s.setIrqLine v).a = s.a := rfl
@[simp] theorem State.setIrqLine_x (v : Bool) : (s.setIrqLine v).x = s.x := rfl
@[simp] theorem State.setIrqLine_y (v : Bool) : (s.setIrqLine v).y = s.y := rfl
@[simp] theorem State.setIrqLine_p (v : Bool) : (s.setIrqLine v).p = s.p := rfl
@[simp] theorem State.setIrqLine_sp (v : Bool) : (s.setIrqLine v).sp = s.sp := rfl
@[simp] theorem State.setIrqLine_pc (v : Bool) : (s.setIrqLine v).pc = s.pc := rfl
@[simp] theorem State.setIrqLine_run (v : Bool) : (s.setIrqLine v).run = s.run := rfl
@[simp] theorem State.setIrqLine_fault (v : Bool) : (s.setIrqLine v).fault = s.fault := rfl
@[simp] theorem State.setIrqLine_nmiPending (v : Bool) : (s.setIrqLine v).nmiPending = s.nmiPending := rfl
@[simp] theorem State.setIrqLine_irqLine (v : Bool) : (s.setIrqLine v).irqLine = v := rfl
@[simp] theorem State.setIrqLine_initialised (v : Bool) : (s.setIrqLine v).initialised = s.initialised := rfl
@[simp] theorem State.setIrqLine_cycles (v : Bool) : (s.setIrqLine v).cycles = s.cycles := rfl
@[simp] theorem State.setIrqLine_ram (v : Bool) : (s.setIrqLine v).ram = s.ram := rfl
@[simp] theorem State.setIrqLine_ppu (v : Bool) : (s.setIrqLine v).ppu = s.ppu := rfl
@[simp] theorem State.setIrqLine_io (v : Bool) : (s.setIrqLine v).io = s.io := rfl
@[simp] theorem State.setIrqLine_cart (v : Bool) : (s.setIrqLine v).cart = s.cart := rfl
@[simp] theorem State.setIrqLine_delegate (v : Bool) (d : DelegateId) : (s.setIrqLine v).delegate d = s.delegate d := by cases d <;> rfl
@[simp] theorem State.setInitialised_a (v : Bool) : (s.setInitialised v).a = s.a := rfl
@[simp] theorem State.setInitialised_x (v : Bool) : (s.setInitialised v).x = s.x := rfl
@[simp] theorem State.setInitialised_y (v : Bool) : (s.setInitialised v).y = s.y := rfl
@[simp] theorem State.setInitialised_p (v : Bool) : (s.setInitialised v).p = s.p := rfl
@[simp] theorem State.setInitialised_sp (v : Bool) : (s.setInitialised v).sp = s.sp := rfl
@[simp] theorem State.setInitialised_pc (v : Bool) : (s.setInitialised v).pc = s.pc := rfl
@[simp] theorem State.setInitialised_run (v : Bool) : (s.setInitialised v).run = s.run := rfl
@[simp] theorem State.setInitialised_fault (v : Bool) : (s.setInitialised v).fault = s.fault := rfl
@[simp] theorem State.setInitialised_nmiPending (v : Bool) : (s.setInitialised v).nmiPending = s.nmiPending := rfl
@[simp] theorem State.setInitialised_irqLine (v : Bool) : (s.setInitialised v).irqLine = s.irqLine := rfl
@[simp] theorem State.setInitialised_initialised (v : Bool) : (s.setInitialised v).initialised = v := rfl
@[simp] theorem State.setInitialised_cycles (v : Bool) : (s.setInitialised v).cycles = s.cycles := rfl
@[simp] theorem State.setInitialised_ram (v : Bool) : (s.setInitialised v).ram = s.ram := rfl
@[simp] theorem State.setInitialised_ppu (v : Bool) : (s.setInitialised v).ppu = s.ppu := rfl
@[simp] theorem State.setInitialised_io (v : Bool) : (s.setInitialised v).io = s.io := rfl
@[simp] theorem State.setInitialised_cart (v : Bool) : (s.setInitialised v).cart = s.cart := rfl
@[simp] theorem State.setInitialised_delegate (v : Bool) (d : DelegateId) : (s.setInitialised v).delegate d = s.delegate d := by cases d <;> rfl
@[simp] theorem State.addCycles_a (v : Nat) : (s.addCycles v).a = s.a := rfl
@[simp] theorem State.addCycles_x (v : Nat) : (s.addCycles v).x = s.x := rfl
@[simp] theorem State.addCycles_y (v : Nat) : (s.addCycles v).y = s.y := rfl
@[simp] theorem State.addCycles_p (v : Nat) : (s.addCycles v).p = s.p := rfl
@[simp] theorem State.addCycles_sp (v : Nat) : (s.addCycles v).sp = s.sp := rfl
@[simp] theorem State.addCycles_pc (v : Nat) : (s.addCycles v).pc = s.pc := rfl
@[simp] theorem State.addCycles_run (v : Nat) : (s.addCycles v).run = s.run := rfl
@[simp] theorem State.addCycles_fault (v : Nat) : (s.addCycles v).fault = s.fault := rfl
@[simp] theorem State.addCycles_nmiPending (v : Nat) : (s.addCycles v).nmiPending = s.nmiPending := rfl
@[simp] theorem State.addCycles_irqLine (v : Nat) : (s.addCycles v).irqLine = s.irqLine := rfl
@[simp] theorem State.addCycles_initialised (v : Nat) : (s.addCycles v).initialised = s.initialised := rfl
@[simp] theorem State.addCycles_cycles (v : Nat) : (s.addCycles v).cycles = s.cycles + v := rfl
@[simp] theorem State.addCycles_ram (v : Nat) : (s.addCycles v).ram = s.ram := rfl
@[simp] theorem State.addCycles_ppu (v : Nat) : (s.addCycles v).ppu = s.ppu := rfl
@[simp] theorem State.addCycles_io (v : Nat) : (s.addCycles v).io = s.io := rfl
@[simp] theorem State.addCycles_cart (v : Nat) : (s.addCycles v).cart = s.cart := rfl
@[simp] theorem State.addCycles_delegate (v : Nat) (d : DelegateId) : (s.addCycles v).delegate d = s.delegate d := by cases d <;> rfl
@[simp] theorem State.setRam_a (v : Memory) : (s.setRam v).a = s.a := rfl
@[simp] theorem State.setRam_x (v : Memory) : (s.setRam v).x = s.x := rfl
@[simp] theorem State.setRam_y (v : Memory) : (s.setRam v).y = s.y := rfl
@[simp] theorem State.setRam_p (v : Memory) : (s.setRam v).p = s.p := rfl
@[simp] theorem State.setRam_sp (v : Memory) : (s.setRam v).sp = s.sp := rfl
@[simp] theorem State.setRam_pc (v : Memory) : (s.setRam v).pc = s.pc := rfl
@[simp] theorem State.setRam_run (v : Memory) : (s.setRam v).run = s.run := rfl
@[simp] theorem State.setRam_fault (v : Memory) : (s.setRam v).fault = s.fault := rfl
@[simp] theorem State.setRam_nmiPending (v : Memory) : (s.setRam v).nmiPending = s.nmiPending := rfl
@[simp] theorem State.setRam_irqLine (v : Memory) : (s.setRam v).irqLine = s.irqLine := rfl
@[simp] theorem State.setRam_initialised (v : Memory) : (s.setRam v).initialised = s.initialised := rfl
@[simp] theorem State.setRam_cycles (v : Memory) : (s.setRam v).cycles = s.cycles := rfl
@[simp] theorem State.setRam_ram (v : Memory) : (s.setRam v).ram = v := rfl
@[simp] theorem State.setRam_ppu (v : Memory) : (s.setRam v).ppu = s.ppu := rfl
@[simp] theorem State.setRam_io (v : Memory) : (s.setRam v).io = s.io := rfl
@[simp] theorem State.setRam_cart (v : Memory) : (s.setRam v).cart = s.cart := rfl
@[simp] theorem State.setRam_delegate (v : Memory) (d : DelegateId) : (s.setRam v).delegate d = s.delegate d := by cases d <;> rfl

@[simp] theorem State.setDelegate_a (d : DelegateId) (v : DelegateState) : (s.setDelegate d v).a = s.a := by cases d <;> rfl
@[simp] theorem State.setDelegate_x (d : DelegateId) (v : DelegateState) : (s.setDelegate d v).x = s.x := by cases d <;> rfl
@[simp] theorem State.setDelegate_y (d : DelegateId) (v : DelegateState) : (s.setDelegate d v).y = s.y := by cases d <;> rfl
@[simp] theorem State.setDelegate_p (d : DelegateId) (v : DelegateState) : (s.setDelegate d v).p = s.p := by cases d <;> rfl
@[simp] theorem State.setDelegate_sp (d : DelegateId) (v : DelegateState) : (s.setDelegate d v).sp = s.sp := by cases d <;> rfl
@[simp] theorem State.setDelegate_pc (d : DelegateId) (v : DelegateState) : (s.setDelegate d v).pc = s.pc := by cases d <;> rfl
@[simp] theorem State.setDelegate_run (d : DelegateId) (v : DelegateState) : (s.setDelegate d v).run = s.run := by cases d <;> rfl
@[simp] theorem State.setDelegate_fault (d : DelegateId) (v : DelegateState) : (s.setDelegate d v).fault = s.fault := by cases d <;> rfl
@[simp] theorem State.setDelegate_nmiPending (d : DelegateId) (v : DelegateState) : (s.setDelegate d v).nmiPending = s.nmiPending := by cases d <;> rfl
@[simp] theorem State.setDelegate_irqLine (d : DelegateId) (v : DelegateState) : (s.setDelegate d v).irqLine = s.irqLine := by cases d <;> rfl
@[simp] theorem State.setDelegate_initialised (d : DelegateId) (v : DelegateState) : (s.setDelegate d v).initialised = s.initialised := by cases d <;> rfl
@[simp] theorem State.setDelegate_cycles (d : DelegateId) (v : DelegateState) : (s.setDelegate d v).cycles = s.cycles := by cases d <;> rfl
@[simp] theorem State.setDelegate_ram (d : DelegateId) (v : DelegateState) : (s.setDelegate d v).ram = s.ram := by cases d <;> rfl

@[simp] theorem State.setDelegate_delegate_same (d : DelegateId) (v : DelegateState) :
    (s.setDelegate d v).delegate d = v := by cases d <;> rfl

theorem State.setDelegate_delegate_other (d e : DelegateId) (v : DelegateState) (h : e ≠ d) :
    (s.setDelegate d v).delegate e = s.delegate e := by cases d <;> cases e <;> first | rfl | exact absurd rfl h

@[simp] theorem State.putFlag_a (f : Flag) (v : Bool) : (s.putFlag f v).a = s.a := rfl
@[simp] theorem State.setZN_a (v : Byte) : (s.setZN v).a = s.a := rfl
@[simp] theorem State.putFlag_x (f : Flag) (v : Bool) : (s.putFlag f v).x = s.x := rfl
@[simp] theorem State.setZN_x (v : Byte) : (s.setZN v).x = s.x := rfl
@[simp] theorem State.putFlag_y (f : Flag) (v : Bool) : (s.putFlag f v).y = s.y := rfl
@[simp] theorem State.setZN_y (v : Byte) : (s.setZN v).y = s.y := rfl
@[simp] theorem State.putFlag_sp (f : Flag) (v : Bool) : (s.putFlag f v).sp = s.sp := rfl
@[simp] theorem State.setZN_sp (v : Byte) : (s.setZN v).sp = s.sp := rfl
@[simp] theorem State.putFlag_pc (f : Flag) (v : Bool) : (s.putFlag f v).pc = s.pc := rfl
@[simp] theorem State.setZN_pc (v : Byte) : (s.setZN v).pc = s.pc := rfl
@[simp] theorem State.putFlag_run (f : Flag) (v : Bool) : (s.putFlag f v).run = s.run := rfl
@[simp] theorem State.setZN_run (v : Byte) : (s.setZN v).run = s.run := rfl
@[simp] theorem State.putFlag_fault (f : Flag) (v : Bool) : (s.putFlag f v).fault = s.fault := rfl
@[simp] theorem State.setZN_fault (v : Byte) : (s.setZN v).fault = s.fault := rfl
@[simp] theorem State.putFlag_nmiPending (f : Flag) (v : Bool) : (s.putFlag f v).nmiPending = s.nmiPending := rfl
@[simp] theorem State.setZN_nmiPending (v : Byte) : (s.setZN v).nmiPending = s.nmiPending := rfl
@[simp] theorem State.putFlag_irqLine (f : Flag) (v : Bool) : (s.putFlag f v).irqLine = s.irqLine := rfl
@[simp] theorem State.setZN_irqLine (v : Byte) : (s.setZN v).irqLine = s.irqLine := rfl
@[simp] theorem State.putFlag_initialised (f : Flag) (v : Bool) : (s.putFlag f v).initialised = s.initialised := rfl
@[simp] theorem State.setZN_initialised (v : Byte) : (s.setZN v).initialised = s.initialised := rfl
@[simp] theorem State.putFlag_cycles (f : Flag) (v : Bool) : (s.putFlag f v).cycles = s.cycles := rfl
@[simp] theorem State.setZN_cycles (v : Byte) : (s.setZN v).cycles = s.cycles := rfl
@[simp] theorem State.putFlag_ram (f : Flag) (v : Bool) : (s.putFlag f v).ram = s.ram := rfl
@[simp] theorem State.setZN_ram (v : Byte) : (s.setZN v).ram = s.ram := rfl
@[simp] theorem State.putFlag_ppu (f : Flag) (v : Bool) : (s.putFlag f v).ppu = s.ppu := rfl
@[simp] theorem State.setZN_ppu (v : Byte) : (s.setZN v).ppu = s.ppu := rfl
@[simp] theorem State.putFlag_io (f : Flag) (v : Bool) : (s.putFlag f v).io = s.io := rfl
@[simp] theorem State.setZN_io (v : Byte) : (s.setZN v).io = s.io := rfl
@[simp] theorem State.putFlag_cart (f : Flag) (v : Bool) : (s.putFlag f v).cart = s.cart := rfl
@[simp] theorem State.setZN_cart (v : Byte) : (s.setZN v).cart = s.cart := rfl
@[simp] theorem State.putFlag_p (f : Flag) (v : Bool) : (s.putFlag f v).p = Machine.putFlag f v s.p := rfl
@[simp] theorem State.setZN_p (v : Byte) : (s.setZN v).p = Machine.setZN v s.p := rfl
@[simp] theorem State.putFlag_delegate (f : Flag) (v : Bool) (d : DelegateId) :
    (s.putFlag f v).delegate d = s.delegate d := by cases d <;> rfl
@[simp] theorem State.setZN_delegate (v : Byte) (d : DelegateId) : (s.setZN v).delegate d = s.delegate d := by
  cases d <;> rfl

/-- Two states with the same registers, RAM and delegates are the same. -/
theorem State.ext_delegates {s t : State} (ha : s.a = t.a) (hx : s.x = t.x) (hy : s.y = t.y) (hp : s.p = t.p)
    (hsp : s.sp = t.sp) (hpc : s.pc = t.pc) (hrun : s.run = t.run) (hfault : s.fault = t.fault)
    (hnmi : s.nmiPending = t.nmiPending) (hirq : s.irqLine = t.irqLine) (hinit : s.initialised = t.initialised)
    (hcycles : s.cycles = t.cycles) (hram : s.ram = t.ram) (hd : ∀ d, s.delegate d = t.delegate d) : s = t := by
  have hppu : s.ppu = t.ppu := hd .ppu
  have hio : s.io = t.io := hd .io
  have hcart : s.cart = t.cart := hd .cart
  cases s; cases t; simp_all

end Sys2Proof.Machine
end

