-- ==== Sys2Proof/Laws/Bus.lean ====
section
/-! SUPPORT. The laws of the bus: where an address goes, what a read leaves, what a write leaves and what a read gives after it,
and the same for push and pull. -/

namespace Sys2Proof.Machine

/-! ### Routing -/

theorem route_ram {a : Word} (h : a.toNat ≤ 0x1FFF) : route a = .ram (a.toNat % 2048) := by
  have h1 : a ≤ 0x1FFF#16 := by simpa [BitVec.le_def] using h
  rw [route, if_pos h1]
  congr 1
  rw [BitVec.toNat_and]
  exact Nat.and_two_pow_sub_one_eq_mod a.toNat 11

theorem route_ppu {a : Word} (h1 : 0x2000 ≤ a.toNat) (h2 : a.toNat ≤ 0x3FFF) :
    route a = .delegate .ppu (BitVec.ofNat 16 (0x2000 + a.toNat % 8)) := by
  have n1 : ¬ a ≤ 0x1FFF#16 := by simp [BitVec.le_def]; omega
  have p2 : a ≤ 0x3FFF#16 := by simpa [BitVec.le_def] using h2
  rw [route, if_neg n1, if_pos p2]
  congr 1
  apply BitVec.eq_of_toNat_eq
  have h8 : a.toNat &&& 7 = a.toNat % 8 := Nat.and_two_pow_sub_one_eq_mod a.toNat 3
  have hlt : a.toNat % 8 < 2 ^ 13 := by omega
  simp only [BitVec.toNat_or, BitVec.toNat_and, BitVec.toNat_ofNat]
  norm_num only
  rw [h8]
  have := Nat.two_pow_add_eq_or_of_lt hlt 1
  norm_num at this
  rw [← this]
  omega

theorem route_io {a : Word} (h1 : 0x4000 ≤ a.toNat) (h2 : a.toNat ≤ 0x7FFF) : route a = .delegate .io a := by
  have n1 : ¬ a ≤ 0x1FFF#16 := by simp [BitVec.le_def]; omega
  have n2 : ¬ a ≤ 0x3FFF#16 := by simp [BitVec.le_def]; omega
  have p3 : a ≤ 0x7FFF#16 := by simpa [BitVec.le_def] using h2
  rw [route, if_neg n1, if_neg n2, if_pos p3]

theorem route_cart {a : Word} (h1 : 0x8000 ≤ a.toNat) : route a = .delegate .cart a := by
  have n1 : ¬ a ≤ 0x1FFF#16 := by simp [BitVec.le_def]; omega
  have n2 : ¬ a ≤ 0x3FFF#16 := by simp [BitVec.le_def]; omega
  have n3 : ¬ a ≤ 0x7FFF#16 := by simp [BitVec.le_def]; omega
  rw [route, if_neg n1, if_neg n2, if_neg n3]

@[simp] theorem route_zext (b : Byte) : route (zext b) = .ram b.toNat := by
  have := b.isLt
  rw [route_ram (by rw [zext_toNat]; omega), zext_toNat]
  congr 1
  omega

theorem stackAddress_toNat (sp : Byte) : (stackAddress sp).toNat = 0x100 + sp.toNat := by
  have h : sp.toNat < 2 ^ 8 := sp.isLt
  have := Nat.two_pow_add_eq_or_of_lt h 1
  norm_num at this
  simp only [stackAddress, Config.stackBase, BitVec.toNat_or, BitVec.toNat_ofNat, zext_toNat]
  norm_num only
  rw [← this]

theorem stackAddress_eq_add (sp : Byte) : stackAddress sp = 0x0100#16 + zext sp := by
  have := sp.isLt
  apply BitVec.eq_of_toNat_eq
  rw [stackAddress_toNat, BitVec.toNat_add, zext_toNat]
  simp only [BitVec.toNat_ofNat]
  omega

@[simp] theorem route_stackAddress (sp : Byte) : route (stackAddress sp) = .ram (0x100 + sp.toNat) := by
  have := sp.isLt
  rw [route_ram (by rw [stackAddress_toNat]; omega), stackAddress_toNat]
  congr 1
  omega

/-! ### Reads -/

section Reads
variable (s : State) (a b : Word)

@[simp] theorem State.ramByte_setA (v : Byte) (k : Nat) : (s.setA v).ramByte k = s.ramByte k := rfl
@[simp] theorem State.ramByte_setX (v : Byte) (k : Nat) : (s.setX v).ramByte k = s.ramByte k := rfl
@[simp] theorem State.ramByte_setY (v : Byte) (k : Nat) : (s.setY v).ramByte k = s.ramByte k := rfl
@[simp] theorem State.ramByte_setP (v : Byte) (k : Nat) : (s.setP v).ramByte k = s.ramByte k := rfl
@[simp] theorem State.ramByte_setSP (v : Byte) (k : Nat) : (s.setSP v).ramByte k = s.ramByte k := rfl
@[simp] theorem State.ramByte_setPC (v : Word) (k : Nat) : (s.setPC v).ramByte k = s.ramByte k := rfl
@[simp] theorem State.ramByte_setRun (v : RunState) (k : Nat) : (s.setRun v).ramByte k = s.ramByte k := rfl
@[simp] theorem State.ramByte_setFault (v : Option Fault) (k : Nat) : (s.setFault v).ramByte k = s.ramByte k := rfl
@[simp] theorem State.ramByte_setNmiPending (v : Bool) (k : Nat) : (s.setNmiPending v).ramByte k = s.ramByte k := rfl
@[simp] theorem State.ramByte_setIrqLine (v : Bool) (k : Nat) : (s.setIrqLine v).ramByte k = s.ramByte k := rfl
@[simp] theorem State.ramByte_setInitialised (v : Bool) (k : Nat) : (s.setInitialised v).ramByte k = s.ramByte k := rfl
@[simp] theorem State.ramByte_addCycles (n k : Nat) : (s.addCycles n).ramByte k = s.ramByte k := rfl
@[simp] theorem State.ramByte_setZN (v : Byte) (k : Nat) : (s.setZN v).ramByte k = s.ramByte k := rfl
@[simp] theorem State.ramByte_putFlag (f : Flag) (v : Bool) (k : Nat) : (s.putFlag f v).ramByte k = s.ramByte k := rfl

@[simp] theorem memRead_fst : (memRead a s).1 = s.busByte a := rfl
@[simp] theorem memRead_snd : (memRead a s).2 = s.afterRead a := rfl

theorem State.afterRead_ram_address {k : Nat} (h : route a = .ram k) : s.afterRead a = s := by
  simp only [State.afterRead, h]

theorem State.busByte_ram_address {k : Nat} (h : route a = .ram k) : s.busByte a = s.ramByte k := by
  simp only [State.busByte, h]

theorem State.afterRead_delegate_address {d : DelegateId} {u : Word} (h : route a = .delegate d u) :
    s.afterRead a = s.setDelegate d ((s.delegate d).afterRead d u) := by simp only [State.afterRead, h]

theorem recordRead_of_effect {d : DelegateId} {u : Word} (es : List DelegateEvent) (h : Config.readHasSideEffect d u = true) :
    recordRead d u es = .read u :: es := by rw [recordRead, if_pos h]

theorem recordRead_of_no_effect {d : DelegateId} {u : Word} (es : List DelegateEvent)
    (h : Config.readHasSideEffect d u = false) : recordRead d u es = es := by simp [recordRead, h]

/-- A read of a target without side effect changes nothing (rule R60). -/
theorem State.afterRead_of_no_effect {d : DelegateId} {u : Word} (hr : route a = .delegate d u)
    (h : Config.readHasSideEffect d u = false) : s.afterRead a = s := by
  rw [State.afterRead_delegate_address s a hr, DelegateState.afterRead, recordRead_of_no_effect _ h]
  cases d <;> rfl

/-- A bus read leaves everything but the events of one delegate. -/
theorem State.afterRead_cases (P : State → Prop) (h0 : P s) (h1 : ∀ d u, P (s.setDelegate d ((s.delegate d).afterRead d u))) :
    P (s.afterRead a) := by
  unfold State.afterRead
  split
  · exact h0
  · exact h1 _ _

@[simp] theorem State.afterRead_a : (s.afterRead a).a = s.a := by
  unfold State.afterRead; split <;> simp
@[simp] theorem State.afterRead_x : (s.afterRead a).x = s.x := by
  unfold State.afterRead; split <;> simp
@[simp] theorem State.afterRead_y : (s.afterRead a).y = s.y := by
  unfold State.afterRead; split <;> simp
@[simp] theorem State.afterRead_p : (s.afterRead a).p = s.p := by
  unfold State.afterRead; split <;> simp
@[simp] theorem State.afterRead_sp : (s.afterRead a).sp = s.sp := by
  unfold State.afterRead; split <;> simp
@[simp] theorem State.afterRead_pc : (s.afterRead a).pc = s.pc := by
  unfold State.afterRead; split <;> simp
@[simp] theorem State.afterRead_run : (s.afterRead a).run = s.run := by
  unfold State.afterRead; split <;> simp
@[simp] theorem State.afterRead_fault : (s.afterRead a).fault = s.fault := by
  unfold State.afterRead; split <;> simp
@[simp] theorem State.afterRead_nmiPending : (s.afterRead a).nmiPending = s.nmiPending := by
  unfold State.afterRead; split <;> simp
@[simp] theorem State.afterRead_irqLine : (s.afterRead a).irqLine = s.irqLine := by
  unfold State.afterRead; split <;> simp
@[simp] theorem State.afterRead_initialised : (s.afterRead a).initialised = s.initialised := by
  unfold State.afterRead; split <;> simp
@[simp] theorem State.afterRead_cycles : (s.afterRead a).cycles = s.cycles := by
  unfold State.afterRead; split <;> simp
@[simp] theorem State.afterRead_ram : (s.afterRead a).ram = s.ram := by
  unfold State.afterRead; split <;> simp

@[simp] theorem State.afterRead_ramByte (k : Nat) : (s.afterRead a).ramByte k = s.ramByte k := by
  simp only [State.ramByte, State.afterRead_ram]

@[simp] theorem State.afterRead_declared (d : DelegateId) (u : Word) :
    ((s.afterRead a).delegate d).declared? u = (s.delegate d).declared? u := by
  unfold State.afterRead
  split
  · rfl
  · rename_i e w _
    by_cases h : d = e
    · subst h
      rw [State.setDelegate_delegate_same]
      rfl
    · rw [State.setDelegate_delegate_other _ _ _ _ h]

/-! ### Writes -/

theorem memWrite_ram_address {k : Nat} (v : Byte) (h : route a = .ram k) :
    memWrite a v s = s.setRam (Memory.set s.ram k v) := by simp only [memWrite, h]

theorem memWrite_delegate_address {d : DelegateId} {u : Word} (v : Byte) (h : route a = .delegate d u) :
    memWrite a v s = s.setDelegate d ((s.delegate d).afterWrite u v) := by simp only [memWrite, h]

@[simp] theorem memWrite_a (v : Byte) : (memWrite a v s).a = s.a := by
  unfold memWrite; split <;> simp
@[simp] theorem memWrite_x (v : Byte) : (memWrite a v s).x = s.x := by
  unfold memWrite; split <;> simp
@[simp] theorem memWrite_y (v : Byte) : (memWrite a v s).y = s.y := by
  unfold memWrite; split <;> simp
@[simp] theorem memWrite_p (v : Byte) : (memWrite a v s).p = s.p := by
  unfold memWrite; split <;> simp
@[simp] theorem memWrite_sp (v : Byte) : (memWrite a v s).sp = s.sp := by
  unfold memWrite; split <;> simp
@[simp] theorem memWrite_pc (v : Byte) : (memWrite a v s).pc = s.pc := by
  unfold memWrite; split <;> simp
@[simp] theorem memWrite_run (v : Byte) : (memWrite a v s).run = s.run := by
  unfold memWrite; split <;> simp
@[simp] theorem memWrite_fault (v : Byte) : (memWrite a v s).fault = s.fault := by
  unfold memWrite; split <;> simp
@[simp] theorem memWrite_nmiPending (v : Byte) : (memWrite a v s).nmiPending = s.nmiPending := by
  unfold memWrite; split <;> simp
@[simp] theorem memWrite_irqLine (v : Byte) : (memWrite a v s).irqLine = s.irqLine := by
  unfold memWrite; split <;> simp
@[simp] theorem memWrite_initialised (v : Byte) : (memWrite a v s).initialised = s.initialised := by
  unfold memWrite; split <;> simp
@[simp] theorem memWrite_cycles (v : Byte) : (memWrite a v s).cycles = s.cycles := by
  unfold memWrite; split <;> simp

theorem State.ramByte_setRam_set (j k : Nat) (v : Byte) :
    (s.setRam (Memory.set s.ram k v)).ramByte j = if j = k then v else s.ramByte j := by
  simp only [State.ramByte, State.setRam_ram, Memory.get?_set]
  by_cases h : j = k <;> simp [h]

/-- A write changes no RAM cell but the one it is routed to. -/
theorem memWrite_ramByte_other (v : Byte) {k : Nat} (h : route a ≠ .ram k) : (memWrite a v s).ramByte k = s.ramByte k := by
  unfold memWrite
  split
  · rename_i j hj
    rw [State.ramByte_setRam_set, if_neg]
    rintro rfl
    exact h hj
  · simp only [State.ramByte, State.setDelegate_ram]

theorem memWrite_ramByte_same (v : Byte) {k : Nat} (h : route a = .ram k) : (memWrite a v s).ramByte k = v := by
  rw [memWrite_ram_address s a v h, State.ramByte_setRam_set, if_pos rfl]

/-- What is declared of a delegate is unchanged but at the target written. -/
theorem DelegateState.declared_afterWrite (ds : DelegateState) (u w : Word) (v : Byte) (h : w ≠ u) :
    (ds.afterWrite u v).declared? w = ds.declared? w := by
  have hn : w.toNat ≠ u.toNat := fun e => h (BitVec.eq_of_toNat_eq e)
  unfold DelegateState.declared? DelegateState.afterWrite
  dsimp only
  cases hg : Memory.get? ds.ram u.toNat with
  | none => rfl
  | some b => simp only [Memory.get?_set_other ds.ram v hn]

theorem memWrite_declared_other (v : Byte) {d : DelegateId} {u : Word} (h : route a ≠ .delegate d u) :
    ((memWrite a v s).delegate d).declared? u = (s.delegate d).declared? u := by
  unfold memWrite
  split
  · simp
  · rename_i e w hr
    by_cases hd : d = e
    · subst hd
      rw [State.setDelegate_delegate_same]
      apply DelegateState.declared_afterWrite
      rintro rfl
      exact h hr
    · rw [State.setDelegate_delegate_other _ _ _ _ hd]

/-- A write in RAM leaves the delegates as they were. -/
theorem memWrite_delegate_of_ram (v : Byte) {k : Nat} (d : DelegateId) (h : route a = .ram k) :
    (memWrite a v s).delegate d = s.delegate d := by rw [memWrite_ram_address s a v h, State.setRam_delegate]

end Reads

/-! ### Push and pull -/

section Stack
variable (s : State) (v : Byte)

@[simp] theorem push_a : (push v s).a = s.a := by simp [push]
@[simp] theorem push_x : (push v s).x = s.x := by simp [push]
@[simp] theorem push_y : (push v s).y = s.y := by simp [push]
@[simp] theorem push_p : (push v s).p = s.p := by simp [push]
@[simp] theorem push_pc : (push v s).pc = s.pc := by simp [push]
@[simp] theorem push_run : (push v s).run = s.run := by simp [push]
@[simp] theorem push_fault : (push v s).fault = s.fault := by simp [push]
@[simp] theorem push_nmiPending : (push v s).nmiPending = s.nmiPending := by simp [push]
@[simp] theorem push_irqLine : (push v s).irqLine = s.irqLine := by simp [push]
@[simp] theorem push_initialised : (push v s).initialised = s.initialised := by simp [push]
@[simp] theorem push_cycles : (push v s).cycles = s.cycles := by simp [push]
@[simp] theorem push_sp : (push v s).sp = s.sp - 1 := by simp [push, sub8]

theorem push_ramByte (k : Nat) : (push v s).ramByte k = if k = 0x100 + s.sp.toNat then v else s.ramByte k := by
  unfold push
  rw [memWrite_ram_address s _ v (route_stackAddress s.sp)]
  exact State.ramByte_setRam_set s k _ v

@[simp] theorem push_delegate (d : DelegateId) : (push v s).delegate d = s.delegate d := by
  unfold push
  rw [State.setSP_delegate]
  exact memWrite_delegate_of_ram s _ v d (route_stackAddress s.sp)

/-- A write on the stack page is a write of a RAM cell. -/
theorem memWrite_stack (sp : Byte) :
    memWrite (0x0100#16 + zext sp) v s = s.setRam (Memory.set s.ram (0x100 + sp.toNat) v) := by
  rw [← stackAddress_eq_add, memWrite_ram_address s _ v (route_stackAddress sp)]

theorem push_eq : push v s = (s.setRam (Memory.set s.ram (0x100 + s.sp.toNat) v)).setSP (s.sp - 1) := by
  unfold push
  rw [memWrite_ram_address s _ v (route_stackAddress s.sp)]

/-- A pull reads the byte above SP and has no side effect: the stack page is RAM. -/
theorem pull_eq : pull s = (s.ramByte (0x100 + (s.sp + 1).toNat), s.setSP (s.sp + 1)) := by
  unfold pull
  dsimp only [State.setSP_sp, add8]
  unfold memRead
  rw [State.busByte_ram_address _ _ (route_stackAddress _), State.afterRead_ram_address _ _ (route_stackAddress _)]
  rfl

end Stack

end Sys2Proof.Machine
end

