-- ==== Sys2Proof/Laws/Operands.lean ====
section
/-! SUPPORT. The laws of the resolver and the operand helpers: what each addressing mode's pointer reads, what each helper leaves
unchanged, and the shapes of instructions as equations. -/

namespace Sys2Proof.Machine

section Resolver
variable (o : Operand) (s : State)

/-! ### Pointers -/

/-- A mode with no pointer reads nothing. -/
theorem readPointer_none (h : pointerAddresses o s = none) : readPointer o s = (0, s) := by
  simp only [readPointer, h]

/-- A pointer is two bus reads, low byte first. -/
theorem readPointer_some {lowAt highAt : Word} (h : pointerAddresses o s = some (lowAt, highAt)) :
    readPointer o s
      = (wordOf (s.busByte lowAt) ((s.afterRead lowAt).busByte highAt), (s.afterRead lowAt).afterRead highAt) := by
  simp only [readPointer, h]
  rfl

/-- A zero-page pointer is in RAM: no side effect. -/
theorem readPointer_indirectX (z : Byte) :
    readPointer (.indirectX z) s = (wordOf (s.ramByte (z + s.x).toNat) (s.ramByte (z + s.x + 1).toNat), s) := by
  rw [readPointer_some (.indirectX z) s rfl, State.afterRead_ram_address _ _ (route_zext _),
    State.afterRead_ram_address _ _ (route_zext _), State.busByte_ram_address _ _ (route_zext _),
    State.busByte_ram_address _ _ (route_zext _)]

theorem readPointer_indirectY (z : Byte) :
    readPointer (.indirectY z) s = (wordOf (s.ramByte z.toNat) (s.ramByte (z + 1).toNat), s) := by
  rw [readPointer_some (.indirectY z) s rfl, State.afterRead_ram_address _ _ (route_zext _),
    State.afterRead_ram_address _ _ (route_zext _), State.busByte_ram_address _ _ (route_zext _),
    State.busByte_ram_address _ _ (route_zext _)]

/-- What a pointer's reads leave: the state itself, or the state after two bus reads. -/
theorem readPointer_snd_cases (P : State → Prop) (h0 : P s) (h2 : ∀ a b, P ((s.afterRead a).afterRead b)) :
    P (readPointer o s).2 := by
  unfold readPointer
  split
  · exact h0
  · exact h2 _ _

@[simp] theorem resolve_snd : (resolve o s).2 = (readPointer o s).2 := rfl

theorem resolve_ea : (resolve o s).1.ea = effectiveAddress o (readPointer o s).1 (readPointer o s).2 := rfl

theorem resolve_crossed : (resolve o s).1.crossed
    = pageCrossed (baseAddress o (readPointer o s).1 (readPointer o s).2) (resolve o s).1.ea := rfl

/-- A page is crossed when the high byte changes (rule R124). -/
theorem pageCrossed_iff (base ea : Word) : pageCrossed base ea = true ↔ hiByte base ≠ hiByte ea := by
  simp only [pageCrossed, bne_iff_ne, ne_eq, high_eq_iff]

@[simp] theorem readPointer_a : (readPointer o s).2.a = s.a := by
  unfold readPointer; split <;> simp
@[simp] theorem readPointer_x : (readPointer o s).2.x = s.x := by
  unfold readPointer; split <;> simp
@[simp] theorem readPointer_y : (readPointer o s).2.y = s.y := by
  unfold readPointer; split <;> simp
@[simp] theorem readPointer_p : (readPointer o s).2.p = s.p := by
  unfold readPointer; split <;> simp
@[simp] theorem readPointer_sp : (readPointer o s).2.sp = s.sp := by
  unfold readPointer; split <;> simp
@[simp] theorem readPointer_pc : (readPointer o s).2.pc = s.pc := by
  unfold readPointer; split <;> simp
@[simp] theorem readPointer_run : (readPointer o s).2.run = s.run := by
  unfold readPointer; split <;> simp
@[simp] theorem readPointer_fault : (readPointer o s).2.fault = s.fault := by
  unfold readPointer; split <;> simp
@[simp] theorem readPointer_nmiPending : (readPointer o s).2.nmiPending = s.nmiPending := by
  unfold readPointer; split <;> simp
@[simp] theorem readPointer_irqLine : (readPointer o s).2.irqLine = s.irqLine := by
  unfold readPointer; split <;> simp
@[simp] theorem readPointer_initialised : (readPointer o s).2.initialised = s.initialised := by
  unfold readPointer; split <;> simp
@[simp] theorem readPointer_cycles : (readPointer o s).2.cycles = s.cycles := by
  unfold readPointer; split <;> simp
@[simp] theorem readPointer_ram : (readPointer o s).2.ram = s.ram := by
  unfold readPointer; split <;> simp
@[simp] theorem readPointer_ramByte (k : Nat) : (readPointer o s).2.ramByte k = s.ramByte k := by
  simp only [State.ramByte, readPointer_ram]

@[simp] theorem readPointer_declared (d : DelegateId) (u : Word) :
    ((readPointer o s).2.delegate d).declared? u = (s.delegate d).declared? u := by
  unfold readPointer; split <;> simp

/-! ### Operands -/

/-- What `Operand()` leaves: the state itself, or the state after one bus read. -/
theorem readOperand_snd_cases (ea : Word) (P : State → Prop) (h0 : P s) (h1 : P (s.afterRead ea)) :
    P (readOperand o ea s).2 := by
  unfold readOperand
  split
  · exact h0
  · exact h0
  · exact h1

@[simp] theorem readOperand_a (ea : Word) : (readOperand o ea s).2.a = s.a := by
  unfold readOperand; split <;> simp
@[simp] theorem readOperand_x (ea : Word) : (readOperand o ea s).2.x = s.x := by
  unfold readOperand; split <;> simp
@[simp] theorem readOperand_y (ea : Word) : (readOperand o ea s).2.y = s.y := by
  unfold readOperand; split <;> simp
@[simp] theorem readOperand_p (ea : Word) : (readOperand o ea s).2.p = s.p := by
  unfold readOperand; split <;> simp
@[simp] theorem readOperand_sp (ea : Word) : (readOperand o ea s).2.sp = s.sp := by
  unfold readOperand; split <;> simp
@[simp] theorem readOperand_pc (ea : Word) : (readOperand o ea s).2.pc = s.pc := by
  unfold readOperand; split <;> simp
@[simp] theorem readOperand_run (ea : Word) : (readOperand o ea s).2.run = s.run := by
  unfold readOperand; split <;> simp
@[simp] theorem readOperand_fault (ea : Word) : (readOperand o ea s).2.fault = s.fault := by
  unfold readOperand; split <;> simp
@[simp] theorem readOperand_nmiPending (ea : Word) : (readOperand o ea s).2.nmiPending = s.nmiPending := by
  unfold readOperand; split <;> simp
@[simp] theorem readOperand_irqLine (ea : Word) : (readOperand o ea s).2.irqLine = s.irqLine := by
  unfold readOperand; split <;> simp
@[simp] theorem readOperand_initialised (ea : Word) : (readOperand o ea s).2.initialised = s.initialised := by
  unfold readOperand; split <;> simp
@[simp] theorem readOperand_cycles (ea : Word) : (readOperand o ea s).2.cycles = s.cycles := by
  unfold readOperand; split <;> simp
@[simp] theorem readOperand_ram (ea : Word) : (readOperand o ea s).2.ram = s.ram := by
  unfold readOperand; split <;> simp
@[simp] theorem readOperand_ramByte (ea : Word) (k : Nat) : (readOperand o ea s).2.ramByte k = s.ramByte k := by
  simp only [State.ramByte, readOperand_ram]

@[simp] theorem readOperand_declared (ea : Word) (d : DelegateId) (u : Word) :
    ((readOperand o ea s).2.delegate d).declared? u = (s.delegate d).declared? u := by
  unfold readOperand; split <;> simp

@[simp] theorem writeOperand_x (ea : Word) (v : Byte) : (writeOperand o ea v s).x = s.x := by
  unfold writeOperand; split <;> simp
@[simp] theorem writeOperand_y (ea : Word) (v : Byte) : (writeOperand o ea v s).y = s.y := by
  unfold writeOperand; split <;> simp
@[simp] theorem writeOperand_p (ea : Word) (v : Byte) : (writeOperand o ea v s).p = s.p := by
  unfold writeOperand; split <;> simp
@[simp] theorem writeOperand_sp (ea : Word) (v : Byte) : (writeOperand o ea v s).sp = s.sp := by
  unfold writeOperand; split <;> simp
@[simp] theorem writeOperand_pc (ea : Word) (v : Byte) : (writeOperand o ea v s).pc = s.pc := by
  unfold writeOperand; split <;> simp
@[simp] theorem writeOperand_run (ea : Word) (v : Byte) : (writeOperand o ea v s).run = s.run := by
  unfold writeOperand; split <;> simp
@[simp] theorem writeOperand_fault (ea : Word) (v : Byte) : (writeOperand o ea v s).fault = s.fault := by
  unfold writeOperand; split <;> simp
@[simp] theorem writeOperand_nmiPending (ea : Word) (v : Byte) : (writeOperand o ea v s).nmiPending = s.nmiPending := by
  unfold writeOperand; split <;> simp
@[simp] theorem writeOperand_irqLine (ea : Word) (v : Byte) : (writeOperand o ea v s).irqLine = s.irqLine := by
  unfold writeOperand; split <;> simp
@[simp] theorem writeOperand_initialised (ea : Word) (v : Byte) : (writeOperand o ea v s).initialised = s.initialised := by
  unfold writeOperand; split <;> simp
@[simp] theorem writeOperand_cycles (ea : Word) (v : Byte) : (writeOperand o ea v s).cycles = s.cycles := by
  unfold writeOperand; split <;> simp
theorem writeOperand_accumulator (ea : Word) (v : Byte) : writeOperand .accumulator ea v s = s.setA v := rfl

theorem writeOperand_memory (ea : Word) (v : Byte) (h : o ≠ .accumulator) : writeOperand o ea v s = memWrite ea v s := by
  cases o <;> first | rfl | exact absurd rfl h

end Resolver

/-! ### The shapes of instructions always answer a next state -/

section Shapes
variable (code d : Byte) (o : Operand) (s : State)

theorem runImplied_next (f : State → State) :
    runImplied code f s = .next ((f s).addCycles (cost code false false)) := rfl

theorem runRead_next (f : Byte → State → State) :
    runRead code o f s
      = .next ((f (readOperand o (resolve o s).1.ea (resolve o s).2).1
          (readOperand o (resolve o s).1.ea (resolve o s).2).2).addCycles (cost code (resolve o s).1.crossed false)) := rfl

theorem runStore_next (v : State → Byte) :
    runStore code o v s
      = .next ((writeOperand o (resolve o s).1.ea (v (resolve o s).2) (resolve o s).2).addCycles
          (cost code (resolve o s).1.crossed false)) := rfl

theorem runModify_next (f : Byte → Byte → Byte × Byte) :
    runModify code o f s =
      let q := readOperand o (resolve o s).1.ea (resolve o s).2
      .next (((writeOperand o (resolve o s).1.ea (f q.1 q.2.p).1 q.2).setP (f q.1 q.2.p).2).addCycles
        (cost code (resolve o s).1.crossed false)) := rfl

theorem runJump_next (f : Word → State → State) :
    runJump code o f s
      = .next ((f (resolve o s).1.ea (resolve o s).2).addCycles (cost code false false)) := rfl

theorem runBranch_next (taken : Bool) :
    runBranch code d taken s
      = .next ((if taken then s.setPC (s.pc + sext d) else s).addCycles
          (cost code (pageCrossed s.pc (s.pc + sext d)) taken)) := rfl

end Shapes

end Sys2Proof.Machine
end

