-- ==== Sys2Proof/Laws/Exec.lean ====
section
/-! SUPPORT. `exec` by mnemonic: the 151 arms as 56 lines over the operand, so that a proof about an instruction splits on its
mnemonic only; every instruction answers a next state. -/

namespace Sys2Proof.Machine

/-- A branch's displacement. -/
def displacementOf : Operand → Byte
  | .relative d => d
  | _ => 0

/-- The meaning of a mnemonic for any operand, with its opcode byte. -/
def execByMnemonic (m : Mnemonic) (code : Byte) (o : Operand) (s : State) : StepResult :=
  match m with
  | .lda => runRead code o lda s
  | .ldx => runRead code o ldx s
  | .ldy => runRead code o ldy s
  | .adc => runRead code o adc s
  | .sbc => runRead code o sbc s
  | .cmp => runRead code o cmpA s
  | .cpx => runRead code o cmpX s
  | .cpy => runRead code o cmpY s
  | .bit => runRead code o bitTest s
  | .ora => runRead code o ora s
  | .eor => runRead code o eor s
  | .and => runRead code o andA s
  | .sta => runStore code o State.a s
  | .stx => runStore code o State.x s
  | .sty => runStore code o State.y s
  | .asl => runModify code o asl s
  | .lsr => runModify code o lsr s
  | .rol => runModify code o rol s
  | .ror => runModify code o ror s
  | .inc => runModify code o inc s
  | .dec => runModify code o dec s
  | .jmp => runJump code o State.setPC s
  | .jsr => runJump code o jsr s
  | .bpl => runBranch code (displacementOf o) (!s.flag .n) s
  | .bmi => runBranch code (displacementOf o) (s.flag .n) s
  | .bvc => runBranch code (displacementOf o) (!s.flag .v) s
  | .bvs => runBranch code (displacementOf o) (s.flag .v) s
  | .bcc => runBranch code (displacementOf o) (!s.flag .c) s
  | .bcs => runBranch code (displacementOf o) (s.flag .c) s
  | .bne => runBranch code (displacementOf o) (!s.flag .z) s
  | .beq => runBranch code (displacementOf o) (s.flag .z) s
  | .tax => runImplied code tax s
  | .tay => runImplied code tay s
  | .txa => runImplied code txa s
  | .tya => runImplied code tya s
  | .tsx => runImplied code tsx s
  | .txs => runImplied code txs s
  | .inx => runImplied code inx s
  | .iny => runImplied code iny s
  | .dex => runImplied code dex s
  | .dey => runImplied code dey s
  | .pha => runImplied code pha s
  | .php => runImplied code php s
  | .pla => runImplied code pla s
  | .plp => runImplied code plp s
  | .rts => runImplied code rts s
  | .rti => runImplied code returnFromInterrupt s
  | .nop => runImplied code id s
  | .brk => runImplied code halt s
  | .clc => runImplied code (State.putFlag .c false) s
  | .sec => runImplied code (State.putFlag .c true) s
  | .cli => runImplied code (State.putFlag .i false) s
  | .sei => runImplied code (State.putFlag .i true) s
  | .cld => runImplied code (State.putFlag .d false) s
  | .sed => runImplied code (State.putFlag .d true) s
  | .clv => runImplied code (State.putFlag .v false) s

/-- Every arm of `exec` is its mnemonic's line, at its own opcode byte and operand. -/
theorem exec_eq (i : Instr) (s : State) : exec i s = execByMnemonic i.mnemonic i.opcode i.operand s := by cases i <;> rfl

/-- Executing an instruction answers a next state: no instruction stops. -/
theorem exec_next (i : Instr) (s : State) : ∃ t, exec i s = .next t := by cases i <;> exact ⟨_, rfl⟩

/-- The cost of an instruction from its row. -/
theorem cost_of_row {code : Byte} {r : OpcodeRecord} (crossed taken : Bool) (h : opcodeRecord code = some r) :
    cost code crossed taken = r.baseCycles + (if r.pageCrossPenalty && crossed then 1 else 0)
      + (if r.mode == .relative && taken then 1 + (if crossed then 1 else 0) else 0) := by
  simp only [cost, h]

/-- The first reset of a newly constructed session leaves the state the host starts from (rules R41, R260). -/
theorem hostReset_construct : State.reset = hostReset State.construct := rfl

end Sys2Proof.Machine
end

