-- ==== Sys2Proof/Laws/Canonical.lean ====
section
/-! SUPPORT. The canonical form of the memories through the shared operations: where an address can go, and that every bus read
and write keeps the form. -/

namespace Sys2Proof.Machine

/-- A RAM index is below 2048 (rule R52). -/
theorem route_ram_lt {a : Word} {k : Nat} (h : route a = .ram k) : k < Config.ramSize := by
  have ha := a.isLt
  show k < 2048
  rcases Nat.lt_or_ge 0x1FFF a.toNat with h1 | h1
  · rcases Nat.lt_or_ge 0x3FFF a.toNat with h2 | h2
    · rcases Nat.lt_or_ge 0x7FFF a.toNat with h3 | h3
      · rw [route_cart (by omega)] at h; cases h
      · rw [route_io (by omega) h3] at h; cases h
    · rw [route_ppu (by omega) h2] at h; cases h
  · rw [route_ram h1] at h
    cases h
    omega

/-- A delegate is passed its own target addresses only (rules R51, R53 to R55). -/
theorem route_target {a : Word} {d : DelegateId} {u : Word} (h : route a = .delegate d u) :
    firstTarget d ≤ u.toNat ∧ u.toNat < endTarget d := by
  have ha := a.isLt
  rcases Nat.lt_or_ge 0x1FFF a.toNat with h1 | h1
  · rcases Nat.lt_or_ge 0x3FFF a.toNat with h2 | h2
    · rcases Nat.lt_or_ge 0x7FFF a.toNat with h3 | h3
      · rw [route_cart (by omega)] at h
        cases h
        simp only [firstTarget, endTarget]
        omega
      · rw [route_io (by omega) h3] at h
        cases h
        simp only [firstTarget, endTarget]
        omega
    · rw [route_ppu (by omega) h2] at h
      cases h
      simp only [firstTarget, endTarget, BitVec.toNat_ofNat]
      omega
  · rw [route_ram h1] at h
    cases h

/-- The four parts of the form. -/
theorem State.wf_iff (s : State) :
    s.wf = true ↔ Memory.wf Config.ramSize 0 s.ram = true ∧ ∀ d, (s.delegate d).wf d = true := by
  simp only [State.wf, Bool.and_eq_true]
  constructor
  · rintro ⟨⟨⟨h0, h1⟩, h2⟩, h3⟩
    exact ⟨h0, fun d => by cases d <;> assumption⟩
  · rintro ⟨h0, h⟩
    exact ⟨⟨⟨h0, h .ppu⟩, h .io⟩, h .cart⟩

/-- Replacing one delegate's state by a canonical one keeps the form. -/
theorem State.wf_setDelegate {s : State} {d : DelegateId} {v : DelegateState} (h : s.wf = true) (hv : v.wf d = true) :
    (s.setDelegate d v).wf = true := by
  rw [State.wf_iff] at *
  refine ⟨by simpa using h.1, fun e => ?_⟩
  by_cases he : e = d
  · subst he
    rwa [State.setDelegate_delegate_same]
  · rw [State.setDelegate_delegate_other _ _ _ _ he]
    exact h.2 e

theorem State.wf_afterRead {s : State} (a : Word) (h : s.wf = true) : (s.afterRead a).wf = true := by
  apply State.afterRead_cases s a (fun t => t.wf = true) h
  intro d u
  exact State.wf_setDelegate h (((State.wf_iff s).mp h).2 d)

theorem State.wf_memWrite {s : State} (a : Word) (v : Byte) (h : s.wf = true) : (memWrite a v s).wf = true := by
  unfold memWrite
  split
  · rename_i k hk
    rw [State.wf_iff] at *
    refine ⟨Memory.wf_set s.ram v h.1 (Nat.zero_le k) (route_ram_lt hk), fun d => ?_⟩
    rw [State.setRam_delegate]
    exact h.2 d
  · rename_i d u hu
    refine State.wf_setDelegate h ?_
    have hd := ((State.wf_iff s).mp h).2 d
    simp only [DelegateState.wf, DelegateState.afterWrite, Bool.and_eq_true] at hd ⊢
    refine ⟨hd.1, ?_⟩
    split
    · exact Memory.wf_set _ v hd.2 (route_target hu).1 (route_target hu).2
    · exact hd.2

@[simp] theorem State.wf_setSP (s : State) (v : Byte) : (s.setSP v).wf = s.wf := rfl
@[simp] theorem State.wf_setP (s : State) (v : Byte) : (s.setP v).wf = s.wf := rfl
@[simp] theorem State.wf_setA (s : State) (v : Byte) : (s.setA v).wf = s.wf := rfl
@[simp] theorem State.wf_setX (s : State) (v : Byte) : (s.setX v).wf = s.wf := rfl
@[simp] theorem State.wf_setY (s : State) (v : Byte) : (s.setY v).wf = s.wf := rfl
@[simp] theorem State.wf_setPC (s : State) (v : Word) : (s.setPC v).wf = s.wf := rfl
@[simp] theorem State.wf_setRun (s : State) (v : RunState) : (s.setRun v).wf = s.wf := rfl
@[simp] theorem State.wf_setFault (s : State) (v : Option Fault) : (s.setFault v).wf = s.wf := rfl
@[simp] theorem State.wf_setNmiPending (s : State) (v : Bool) : (s.setNmiPending v).wf = s.wf := rfl
@[simp] theorem State.wf_setIrqLine (s : State) (v : Bool) : (s.setIrqLine v).wf = s.wf := rfl
@[simp] theorem State.wf_setInitialised (s : State) (v : Bool) : (s.setInitialised v).wf = s.wf := rfl
@[simp] theorem State.wf_addCycles (s : State) (n : Nat) : (s.addCycles n).wf = s.wf := rfl
@[simp] theorem State.wf_putFlag (s : State) (f : Flag) (v : Bool) : (s.putFlag f v).wf = s.wf := rfl
@[simp] theorem State.wf_setZN (s : State) (v : Byte) : (s.setZN v).wf = s.wf := rfl

theorem State.wf_push {s : State} (v : Byte) (h : s.wf = true) : (push v s).wf = true := State.wf_memWrite _ v h

theorem State.wf_pull {s : State} (h : s.wf = true) : (pull s).2.wf = true := by rwa [pull_eq, State.wf_setSP]

theorem State.wf_readPointer {s : State} (o : Operand) (h : s.wf = true) : (readPointer o s).2.wf = true :=
  readPointer_snd_cases o s (fun t => t.wf = true) h fun a b => State.wf_afterRead b (State.wf_afterRead a h)

theorem State.wf_readOperand {s : State} (o : Operand) (ea : Word) (h : s.wf = true) :
    (readOperand o ea s).2.wf = true :=
  readOperand_snd_cases o s ea (fun t => t.wf = true) h (State.wf_afterRead ea h)

theorem State.wf_writeOperand {s : State} (o : Operand) (ea : Word) (v : Byte) (h : s.wf = true) :
    (writeOperand o ea v s).wf = true := by
  unfold writeOperand
  split
  · exact h
  · exact State.wf_memWrite ea v h

/-- A host load keeps the form. -/
theorem State.wf_hostLoad (base : Word) (bytes : List Byte) {s : State} (h : s.wf = true) :
    (hostLoad base bytes s).wf = true := by
  induction bytes generalizing base s with
  | nil => exact h
  | cons b bs ih => exact ih _ (State.wf_memWrite base b h)

end Sys2Proof.Machine
end

