-- ==== Sys2Proof/Laws/Flags.lean ====
section
/-! SUPPORT. The laws of P: reading a flag after writing one, P as its eight flags, and what each flag computation leaves in
each flag. -/

namespace Sys2Proof.Machine

/-- The bit number of a flag (rule R26). -/
def Flag.bit : Flag → Nat
  | .c => 0
  | .z => 1
  | .i => 2
  | .d => 3
  | .b => 4
  | .u => 5
  | .v => 6
  | .n => 7

theorem getFlag_eq_getLsbD (f : Flag) (p : Byte) : getFlag f p = p.getLsbD f.bit := by
  cases f <;> revert p <;> decide

/-- The eight flags are eight independent bits. -/
theorem getFlag_putFlag (f g : Flag) (value : Bool) (p : Byte) :
    getFlag f (putFlag g value p) = if f = g then value else getFlag f p := by
  cases f <;> cases g <;> cases value <;> simp [getFlag_eq_getLsbD, putFlag, Flag.mask, Flag.bit]

@[simp] theorem getFlag_putFlag_same (f : Flag) (value : Bool) (p : Byte) : getFlag f (putFlag f value p) = value := by
  rw [getFlag_putFlag, if_pos rfl]

theorem getFlag_putFlag_other {f g : Flag} (value : Bool) (p : Byte) (h : f ≠ g) :
    getFlag f (putFlag g value p) = getFlag f p := by rw [getFlag_putFlag, if_neg h]

/-- P is its eight flags. -/
theorem status_ext {p q : Byte} (h : ∀ f, getFlag f p = getFlag f q) : p = q := by
  apply BitVec.eq_of_getLsbD_eq
  intro k hk
  have hc := h .c
  have hz := h .z
  have hi := h .i
  have hd := h .d
  have hb := h .b
  have hu := h .u
  have hv := h .v
  have hn := h .n
  simp only [getFlag_eq_getLsbD, Flag.bit] at *
  have : k = 0 ∨ k = 1 ∨ k = 2 ∨ k = 3 ∨ k = 4 ∨ k = 5 ∨ k = 6 ∨ k = 7 := by omega
  rcases this with rfl | rfl | rfl | rfl | rfl | rfl | rfl | rfl <;> assumption

theorem getFlag_setZN (f : Flag) (v p : Byte) :
    getFlag f (setZN v p) = if f = .n then bitOf 7 v else if f = .z then v == 0 else getFlag f p := by
  simp only [setZN, getFlag_putFlag]

theorem getFlag_addFlags (f : Flag) (r : AddResult) (p : Byte) :
    getFlag f (addFlags r p)
      = if f = .n then bitOf 7 r.result else if f = .z then r.result == 0
        else if f = .v then r.overflow else if f = .c then r.carry else getFlag f p := by
  simp only [addFlags, getFlag_setZN, getFlag_putFlag]

theorem getFlag_compareFlags (f : Flag) (r m p : Byte) :
    getFlag f (compareFlags r m p)
      = if f = .n then bitOf 7 (sub8 r m) else if f = .z then sub8 r m == 0
        else if f = .c then decide (m.toNat ≤ r.toNat) else getFlag f p := by
  simp only [compareFlags, getFlag_setZN, getFlag_putFlag]

theorem getFlag_bitFlags (f : Flag) (a m p : Byte) :
    getFlag f (bitFlags a m p)
      = if f = .n then bitOf 7 m else if f = .v then bitOf 6 m else if f = .z then a &&& m == 0 else getFlag f p := by
  simp only [bitFlags, getFlag_putFlag]

theorem getFlag_shiftFlags (f : Flag) (r : Byte × Bool) (p : Byte) :
    getFlag f (shiftFlags r p)
      = if f = .n then bitOf 7 r.1 else if f = .z then r.1 == 0 else if f = .c then r.2 else getFlag f p := by
  simp only [shiftFlags, getFlag_setZN, getFlag_putFlag]

theorem getFlag_pushedByPhp (f : Flag) (p : Byte) :
    getFlag f (pushedByPhp p) = if f = .b ∨ f = .u then true else getFlag f p := by
  cases f <;> simp [pushedByPhp, getFlag_eq_getLsbD, Flag.bit]

theorem getFlag_pushedByInterrupt (f : Flag) (p : Byte) :
    getFlag f (pushedByInterrupt p) = if f = .b then false else if f = .u then true else getFlag f p := by
  cases f <;> simp [pushedByInterrupt, getFlag_eq_getLsbD, Flag.bit]

theorem getFlag_pulledStatus (f : Flag) (p : Byte) :
    getFlag f (pulledStatus p) = if f = .b then false else if f = .u then true else getFlag f p := by
  cases f <;> simp [pulledStatus, getFlag_eq_getLsbD, Flag.bit]

/-- Bit 7 says that a byte is 0x80 or more. -/
theorem bitOf_seven (v : Byte) : bitOf 7 v = true ↔ 0x80 ≤ v.toNat := by
  revert v
  decide

theorem bitOf_seven_eq_msb (v : Byte) : bitOf 7 v = v.msb := by
  revert v
  decide

theorem addCore_result_toNat (a m : Byte) (cin : Bool) :
    (addCore a m cin).result.toNat = (a.toNat + m.toNat + cin.toNat) % 256 := by simp [addCore]

/-- The mask 0x80 takes the sign bit. -/
theorem and_sign_ne_zero (v : Byte) : (v &&& 0x80 != 0) = v.msb := by
  revert v
  decide

/-- Rule R150's V: the operands have one sign and the result has the other. -/
theorem addCore_overflow_iff (a m : Byte) (cin : Bool) :
    (addCore a m cin).overflow = true ↔ (a.msb = m.msb ∧ (addCore a m cin).result.msb ≠ a.msb) := by
  simp only [addCore]
  rw [and_sign_ne_zero]
  generalize BitVec.ofNat 8 (a.toNat + m.toNat + cin.toNat) = r
  rw [BitVec.msb_and, BitVec.msb_not, BitVec.msb_xor, BitVec.msb_xor]
  cases a.msb <;> cases m.msb <;> cases r.msb <;> decide

/-- The complement SBC adds (rule R152). -/
theorem complement_toNat (m : Byte) : (m ^^^ 0xFF).toNat = 255 - m.toNat := by
  revert m
  decide

end Sys2Proof.Machine
end

