-- ==== Sys2Proof/Laws/Independence.lean ====
section
/-! SUPPORT. What the shared operations do not look at: reads, writes and addresses are the same whatever P and the cycle counter
hold, and an operation commutes with setting them. -/

namespace Sys2Proof.Machine

section
variable (s : State) (a ea : Word) (v : Byte) (o : Operand)


/-! ### `setP` -/

variable (q : Byte)

@[simp] theorem State.busByte_setP : (s.setP q).busByte a = s.busByte a := by
  unfold State.busByte
  split <;> simp

@[simp] theorem State.afterRead_setP : (s.setP q).afterRead a = (s.afterRead a).setP q := by
  unfold State.afterRead
  split
  · rfl
  · rename_i d t _
    cases d <;> rfl

@[simp] theorem memWrite_setP : memWrite a v (s.setP q) = (memWrite a v s).setP q := by
  unfold memWrite
  split
  · rfl
  · rename_i d t _
    cases d <;> rfl

@[simp] theorem push_setP : push v (s.setP q) = (push v s).setP q := by
  unfold push
  simp only [State.setP_sp, memWrite_setP]
  rfl

@[simp] theorem pull_setP : pull (s.setP q) = ((pull s).1, (pull s).2.setP q) := by
  simp only [pull_eq, State.setP_sp]
  rfl

@[simp] theorem pointerAddresses_setP : pointerAddresses o (s.setP q) = pointerAddresses o s := by cases o <;> rfl

@[simp] theorem readPointer_setP : readPointer o (s.setP q) = ((readPointer o s).1, (readPointer o s).2.setP q) := by
  unfold readPointer
  rw [pointerAddresses_setP]
  split <;> simp [memRead]

@[simp] theorem effectiveAddress_setP (ptr : Word) : effectiveAddress o ptr (s.setP q) = effectiveAddress o ptr s := by
  cases o <;> rfl

@[simp] theorem baseAddress_setP (ptr : Word) : baseAddress o ptr (s.setP q) = baseAddress o ptr s := by cases o <;> rfl

@[simp] theorem resolve_setP : resolve o (s.setP q) = ((resolve o s).1, (resolve o s).2.setP q) := by
  unfold resolve
  simp only [readPointer_setP, effectiveAddress_setP, baseAddress_setP]

@[simp] theorem readOperand_setP :
    readOperand o ea (s.setP q) = ((readOperand o ea s).1, (readOperand o ea s).2.setP q) := by
  unfold readOperand
  split <;> simp [memRead]

@[simp] theorem writeOperand_setP : writeOperand o ea v (s.setP q) = (writeOperand o ea v s).setP q := by
  unfold writeOperand
  split
  · rfl
  · exact memWrite_setP s ea v q


/-! ### `addCycles` -/

variable (n : Nat)

@[simp] theorem State.busByte_addCycles : (s.addCycles n).busByte a = s.busByte a := by
  unfold State.busByte
  split <;> simp

@[simp] theorem State.afterRead_addCycles : (s.addCycles n).afterRead a = (s.afterRead a).addCycles n := by
  unfold State.afterRead
  split
  · rfl
  · rename_i d t _
    cases d <;> rfl

@[simp] theorem memWrite_addCycles : memWrite a v (s.addCycles n) = (memWrite a v s).addCycles n := by
  unfold memWrite
  split
  · rfl
  · rename_i d t _
    cases d <;> rfl

@[simp] theorem push_addCycles : push v (s.addCycles n) = (push v s).addCycles n := by
  unfold push
  simp only [State.addCycles_sp, memWrite_addCycles]
  rfl

@[simp] theorem pull_addCycles : pull (s.addCycles n) = ((pull s).1, (pull s).2.addCycles n) := by
  simp only [pull_eq, State.addCycles_sp]
  rfl

@[simp] theorem pointerAddresses_addCycles : pointerAddresses o (s.addCycles n) = pointerAddresses o s := by cases o <;> rfl

@[simp] theorem readPointer_addCycles : readPointer o (s.addCycles n) = ((readPointer o s).1, (readPointer o s).2.addCycles n) := by
  unfold readPointer
  rw [pointerAddresses_addCycles]
  split <;> simp [memRead]

@[simp] theorem effectiveAddress_addCycles (ptr : Word) : effectiveAddress o ptr (s.addCycles n) = effectiveAddress o ptr s := by
  cases o <;> rfl

@[simp] theorem baseAddress_addCycles (ptr : Word) : baseAddress o ptr (s.addCycles n) = baseAddress o ptr s := by cases o <;> rfl

@[simp] theorem resolve_addCycles : resolve o (s.addCycles n) = ((resolve o s).1, (resolve o s).2.addCycles n) := by
  unfold resolve
  simp only [readPointer_addCycles, effectiveAddress_addCycles, baseAddress_addCycles]

@[simp] theorem readOperand_addCycles :
    readOperand o ea (s.addCycles n) = ((readOperand o ea s).1, (readOperand o ea s).2.addCycles n) := by
  unfold readOperand
  split <;> simp [memRead]

@[simp] theorem writeOperand_addCycles : writeOperand o ea v (s.addCycles n) = (writeOperand o ea v s).addCycles n := by
  unfold writeOperand
  split
  · rfl
  · exact memWrite_addCycles s ea v n

end

end Sys2Proof.Machine
end

