-- ==== Sys2Proof/Laws/Session.lean ====
section
/-! SUPPORT. The laws of fetching and of the host's load: what a fetch reads and leaves, that a byte with a table row always
decodes, and that a load changes nothing but the bytes and the delegates. -/

namespace Sys2Proof

/-- Whether a byte has an instruction does not depend on the operand bytes. -/
theorem decodeOpcode_isSome (code b1 b2 : Byte) :
    (decodeOpcode code b1 b2).isSome = (decodeOpcode code 0 0).isSome := by
  unfold decodeOpcode
  split
  all_goals first
    | (simp only [decodeRow0, decodeRow1, decodeRow2, decodeRow3, decodeRow4, decodeRow5, decodeRow6, decodeRow7,
         decodeRow8, decodeRow9, decodeRowA, decodeRowB, decodeRowC, decodeRowD, decodeRowE, decodeRowF]
       split <;> rfl)
    | rfl

/-- The table and the decoder know the same bytes (rules R84, R85). -/
theorem decodeOpcode_isSome_iff_row (code : Byte) : (decodeOpcode code 0 0).isSome = (opcodeRecord code).isSome := by
  revert code
  decide +kernel

/-- A byte with a table row has an instruction, whatever its operand bytes. -/
theorem decodeOpcode_of_row {code : Byte} {r : OpcodeRecord} (b1 b2 : Byte) (h : opcodeRecord code = some r) :
    ∃ i, decodeOpcode code b1 b2 = some i := by
  rw [← Option.isSome_iff_exists, decodeOpcode_isSome, decodeOpcode_isSome_iff_row, h]
  rfl

/-- The length in a table row is that of the instruction the byte decodes to. -/
theorem length_of_row {code : Byte} {r : OpcodeRecord} (h : opcodeRecord code = some r) :
    ∃ i : Instr, i.opcode = code ∧ r.length = 1 + i.operand.mode.operandBytes := by
  obtain ⟨i, hi⟩ := decodeOpcode_of_row 0 0 h
  obtain ⟨hc, -⟩ := opcode_of_decodeOpcode hi
  obtain ⟨r', hr', -, -, -, hl⟩ := opcodeRecord_opcode i
  rw [hc, h] at hr'
  cases hr'
  exact ⟨i, hc, hl⟩

namespace Machine

section
variable (s : State)

/-- `Fetch()` is one bus read at PC, and PC one higher (rule R102). -/
theorem fetch_eq : fetch s = (s.busByte s.pc, (s.afterRead s.pc).setPC (s.pc + 1)) := by
  unfold fetch memRead add16
  simp

theorem fetchOperands_succ (n : Nat) :
    fetchOperands (n + 1) s
      = ((fetch s).1 :: (fetchOperands n (fetch s).2).1, (fetchOperands n (fetch s).2).2) := rfl

@[simp] theorem fetchOperands_length (n : Nat) : (fetchOperands n s).1.length = n := by
  induction n generalizing s with
  | zero => rfl
  | succ n ih => simp [fetchOperands_succ, ih]

@[simp] theorem fetchOperands_pc (n : Nat) : (fetchOperands n s).2.pc = s.pc + BitVec.ofNat 16 n := by
  induction n generalizing s with
  | zero => simp [fetchOperands]
  | succ n ih =>
    simp only [fetchOperands_succ, ih, fetch_eq, State.setPC_pc, BitVec.ofNat_add]
    bv_omega

@[simp] theorem fetchOperands_ram (n : Nat) : (fetchOperands n s).2.ram = s.ram := by
  induction n generalizing s with
  | zero => rfl
  | succ n ih => simp [fetchOperands_succ, ih, fetch_eq]

theorem State.wf_fetchOperands (n : Nat) {s : State} (h : s.wf = true) : (fetchOperands n s).2.wf = true := by
  induction n generalizing s with
  | zero => exact h
  | succ n ih =>
    rw [fetchOperands_succ, fetch_eq]
    exact ih (State.wf_afterRead _ h)

/-- A step whose byte at PC has a table row executes an instruction and answers its next state. -/
theorem runInstruction_of_row {r : OpcodeRecord} (h : opcodeRecord (s.busByte s.pc) = some r) :
    ∃ i t, runInstruction s = (t, .executed (s.busByte s.pc)) ∧ exec i (fetchOperands r.length s).2 = .next t := by
  obtain ⟨j, -, hl⟩ := length_of_row h
  obtain ⟨n, hn⟩ : ∃ n, r.length = n + 1 := ⟨j.operand.mode.operandBytes, by omega⟩
  unfold runInstruction
  rw [hn, fetchOperands_succ]
  generalize hq : fetchOperands n (fetch s).2 = q
  have hlen : q.1.length = n := by rw [← hq, fetchOperands_length]
  have hf : (fetch s).1 = s.busByte s.pc := by rw [fetch_eq]
  obtain ⟨i, hi⟩ := decodeOpcode_of_row (q.1.getD 0 0) (q.1.getD 1 0) h
  have hd : decode (s.busByte s.pc :: q.1) = .ok (i, q.1.drop n) := by
    simp only [decode, h, hn]
    rw [if_neg (by omega), hi]
    rfl
  obtain ⟨t, ht⟩ := exec_next i q.2
  refine ⟨i, t, ?_, ht⟩
  simp only [hf, h, hn, Nat.add_sub_cancel, hq, hd, ht]

/-- A step whose byte at PC has no table row raises the fault (rules R103, R231). -/
theorem runInstruction_of_no_row (h : opcodeRecord (s.busByte s.pc) = none) :
    runInstruction s
      = (raiseUnimplemented (s.busByte s.pc) s.pc (fetch s).2, .fault (.unimplementedOpcode (s.busByte s.pc) s.pc)) := by
  unfold runInstruction
  rw [fetch_eq]
  simp only [h]

@[simp] theorem hostLoad_fault (base : Word) (bytes : List Byte) : (hostLoad base bytes s).fault = s.fault := by
  induction bytes generalizing base s with
  | nil => rfl
  | cons b bs ih => simp [hostLoad, ih]

@[simp] theorem hostLoad_run (base : Word) (bytes : List Byte) : (hostLoad base bytes s).run = s.run := by
  induction bytes generalizing base s with
  | nil => rfl
  | cons b bs ih => simp [hostLoad, ih]

@[simp] theorem hostLoad_initialised (base : Word) (bytes : List Byte) :
    (hostLoad base bytes s).initialised = s.initialised := by
  induction bytes generalizing base s with
  | nil => rfl
  | cons b bs ih => simp [hostLoad, ih]

end

end Machine
end Sys2Proof
end

