-- ==== Sys2Proof/Tests/Slice0.lean ====
section
/-! SUPPORT. The model's own tests. The expected results are the spec's: the encodings its instruction rules and rule R84 give,
and the worked vectors of spec/95_test_vectors.md; then a witness for every statement that has hypotheses. -/

namespace Sys2Proof.Tests

open Sys2Proof.Machine Sys2Proof.Claims

/-! ### Helpers -/

/-- What the decoder answers, where it answers. -/
def decoded (bytes : List Byte) : Option (Instr × List Byte) :=
  match decode bytes with
  | .ok x => some x
  | .error _ => none

/-- The reset state with code at an address, RAM cells written and PC at the code. -/
def loaded (at_ : Word) (code : List Byte) (cells : List (Nat × Byte)) : State :=
  let s := (hostLoad at_ code State.reset).setPC at_
  s.setRam (cells.foldl (fun m c => Memory.set m c.1 c.2) s.ram)

/-- A, X, Y, P, SP, PC, the cycles and the bytes of the named RAM cells, of a next state. -/
def seen (cells : List Nat) (r : StepResult) : Option (List Nat) :=
  match r with
  | .next t =>
    some ([t.a.toNat, t.x.toNat, t.y.toNat, t.p.toNat, t.sp.toNat, t.pc.toNat, t.cycles]
      ++ cells.map fun k => (t.ramByte k).toNat)
  | _ => none


/-! ### WellFormed: lines the assembler refuses (rules R88, R89) -/

theorem test_wellFormed_refuses_store_immediate : (AsmLine.mk .sta (.immediate 5)).wellFormed = false := by decide
theorem test_wellFormed_refuses_jump_zeroPage : (AsmLine.mk .jmp (.zeroPage 0)).wellFormed = false := by decide
theorem test_wellFormed_refuses_lda_zeroPageY : (AsmLine.mk .lda (.zeroPageY 0)).wellFormed = false := by decide
theorem test_wellFormed_refuses_implied_with_operand : (AsmLine.mk .tax .accumulator).wellFormed = false := by decide
theorem test_wellFormed_refuses_branch_absolute : (AsmLine.mk .bne (.absolute 0x0600)).wellFormed = false := by decide
theorem test_assemble_refuses_ill_formed_line : assemble ⟨.sta, .immediate 5⟩ = none := by decide
theorem test_assemble_gives_row : assemble ⟨.ldx, .absoluteY 0x1234⟩ = some (.ldxAbsY 0x1234) := by decide
theorem test_branch_reach_edges :
    branchReaches 0x0602 0x0681 = true ∧ branchReaches 0x0602 0x0682 = false
      ∧ branchReaches 0x0602 0x0582 = true ∧ branchReaches 0x0602 0x0581 = false := by decide
theorem test_branch_displacement :
    branchDisplacement 0x060C 0x0605 = some 0xF9 ∧ branchDisplacement 0x0602 0x0700 = none := by decide


/-! ### Decode: every row, its word written out from the Encoding bullet of the instruction's own rule -/

theorem test_decode_load_store :
    ([([0xA9, 0x9C], Instr.ldaImm 0x9C), ([0xA5, 0x9C], Instr.ldaZp 0x9C), ([0xB5, 0x9C], Instr.ldaZpX 0x9C),
      ([0xAD, 0x34, 0x12], Instr.ldaAbs 0x1234), ([0xBD, 0x34, 0x12], Instr.ldaAbsX 0x1234), ([0xB9, 0x34, 0x12], Instr.ldaAbsY 0x1234),
      ([0xA1, 0x9C], Instr.ldaIndX 0x9C), ([0xB1, 0x9C], Instr.ldaIndY 0x9C), ([0xA2, 0x9C], Instr.ldxImm 0x9C),
      ([0xA6, 0x9C], Instr.ldxZp 0x9C), ([0xB6, 0x9C], Instr.ldxZpY 0x9C), ([0xAE, 0x34, 0x12], Instr.ldxAbs 0x1234),
      ([0xBE, 0x34, 0x12], Instr.ldxAbsY 0x1234), ([0xA0, 0x9C], Instr.ldyImm 0x9C), ([0xA4, 0x9C], Instr.ldyZp 0x9C),
      ([0xB4, 0x9C], Instr.ldyZpX 0x9C), ([0xAC, 0x34, 0x12], Instr.ldyAbs 0x1234), ([0xBC, 0x34, 0x12], Instr.ldyAbsX 0x1234),
      ([0x85, 0x9C], Instr.staZp 0x9C), ([0x95, 0x9C], Instr.staZpX 0x9C), ([0x8D, 0x34, 0x12], Instr.staAbs 0x1234),
      ([0x9D, 0x34, 0x12], Instr.staAbsX 0x1234), ([0x99, 0x34, 0x12], Instr.staAbsY 0x1234), ([0x81, 0x9C], Instr.staIndX 0x9C),
      ([0x91, 0x9C], Instr.staIndY 0x9C), ([0x86, 0x9C], Instr.stxZp 0x9C), ([0x96, 0x9C], Instr.stxZpY 0x9C),
      ([0x8E, 0x34, 0x12], Instr.stxAbs 0x1234), ([0x84, 0x9C], Instr.styZp 0x9C), ([0x94, 0x9C], Instr.styZpX 0x9C),
      ([0x8C, 0x34, 0x12], Instr.styAbs 0x1234)
      ] : List (List Byte × Instr)).all (fun x => decoded x.1 = some (x.2, []) ∧ encode x.2 = x.1) = true := by decide

theorem test_decode_transfer :
    ([([0xAA], Instr.tax), ([0xA8], Instr.tay), ([0x8A], Instr.txa),
      ([0x98], Instr.tya), ([0xBA], Instr.tsx), ([0x9A], Instr.txs)
      ] : List (List Byte × Instr)).all (fun x => decoded x.1 = some (x.2, []) ∧ encode x.2 = x.1) = true := by decide

theorem test_decode_arithmetic_compare :
    ([([0x69, 0x9C], Instr.adcImm 0x9C), ([0x65, 0x9C], Instr.adcZp 0x9C), ([0x75, 0x9C], Instr.adcZpX 0x9C),
      ([0x6D, 0x34, 0x12], Instr.adcAbs 0x1234), ([0x7D, 0x34, 0x12], Instr.adcAbsX 0x1234), ([0x79, 0x34, 0x12], Instr.adcAbsY 0x1234),
      ([0x61, 0x9C], Instr.adcIndX 0x9C), ([0x71, 0x9C], Instr.adcIndY 0x9C), ([0xE9, 0x9C], Instr.sbcImm 0x9C),
      ([0xE5, 0x9C], Instr.sbcZp 0x9C), ([0xF5, 0x9C], Instr.sbcZpX 0x9C), ([0xED, 0x34, 0x12], Instr.sbcAbs 0x1234),
      ([0xFD, 0x34, 0x12], Instr.sbcAbsX 0x1234), ([0xF9, 0x34, 0x12], Instr.sbcAbsY 0x1234), ([0xE1, 0x9C], Instr.sbcIndX 0x9C),
      ([0xF1, 0x9C], Instr.sbcIndY 0x9C), ([0xC9, 0x9C], Instr.cmpImm 0x9C), ([0xC5, 0x9C], Instr.cmpZp 0x9C),
      ([0xD5, 0x9C], Instr.cmpZpX 0x9C), ([0xCD, 0x34, 0x12], Instr.cmpAbs 0x1234), ([0xDD, 0x34, 0x12], Instr.cmpAbsX 0x1234),
      ([0xD9, 0x34, 0x12], Instr.cmpAbsY 0x1234), ([0xC1, 0x9C], Instr.cmpIndX 0x9C), ([0xD1, 0x9C], Instr.cmpIndY 0x9C),
      ([0xE0, 0x9C], Instr.cpxImm 0x9C), ([0xE4, 0x9C], Instr.cpxZp 0x9C), ([0xEC, 0x34, 0x12], Instr.cpxAbs 0x1234),
      ([0xC0, 0x9C], Instr.cpyImm 0x9C), ([0xC4, 0x9C], Instr.cpyZp 0x9C), ([0xCC, 0x34, 0x12], Instr.cpyAbs 0x1234)
      ] : List (List Byte × Instr)).all (fun x => decoded x.1 = some (x.2, []) ∧ encode x.2 = x.1) = true := by decide

theorem test_decode_logical :
    ([([0x29, 0x9C], Instr.andImm 0x9C), ([0x25, 0x9C], Instr.andZp 0x9C), ([0x35, 0x9C], Instr.andZpX 0x9C),
      ([0x2D, 0x34, 0x12], Instr.andAbs 0x1234), ([0x3D, 0x34, 0x12], Instr.andAbsX 0x1234), ([0x39, 0x34, 0x12], Instr.andAbsY 0x1234),
      ([0x21, 0x9C], Instr.andIndX 0x9C), ([0x31, 0x9C], Instr.andIndY 0x9C), ([0x09, 0x9C], Instr.oraImm 0x9C),
      ([0x05, 0x9C], Instr.oraZp 0x9C), ([0x15, 0x9C], Instr.oraZpX 0x9C), ([0x0D, 0x34, 0x12], Instr.oraAbs 0x1234),
      ([0x1D, 0x34, 0x12], Instr.oraAbsX 0x1234), ([0x19, 0x34, 0x12], Instr.oraAbsY 0x1234), ([0x01, 0x9C], Instr.oraIndX 0x9C),
      ([0x11, 0x9C], Instr.oraIndY 0x9C), ([0x49, 0x9C], Instr.eorImm 0x9C), ([0x45, 0x9C], Instr.eorZp 0x9C),
      ([0x55, 0x9C], Instr.eorZpX 0x9C), ([0x4D, 0x34, 0x12], Instr.eorAbs 0x1234), ([0x5D, 0x34, 0x12], Instr.eorAbsX 0x1234),
      ([0x59, 0x34, 0x12], Instr.eorAbsY 0x1234), ([0x41, 0x9C], Instr.eorIndX 0x9C), ([0x51, 0x9C], Instr.eorIndY 0x9C),
      ([0x24, 0x9C], Instr.bitZp 0x9C), ([0x2C, 0x34, 0x12], Instr.bitAbs 0x1234)
      ] : List (List Byte × Instr)).all (fun x => decoded x.1 = some (x.2, []) ∧ encode x.2 = x.1) = true := by decide

theorem test_decode_shift_rotate :
    ([([0x0A], Instr.aslAcc), ([0x06, 0x9C], Instr.aslZp 0x9C), ([0x16, 0x9C], Instr.aslZpX 0x9C),
      ([0x0E, 0x34, 0x12], Instr.aslAbs 0x1234), ([0x1E, 0x34, 0x12], Instr.aslAbsX 0x1234), ([0x4A], Instr.lsrAcc),
      ([0x46, 0x9C], Instr.lsrZp 0x9C), ([0x56, 0x9C], Instr.lsrZpX 0x9C), ([0x4E, 0x34, 0x12], Instr.lsrAbs 0x1234),
      ([0x5E, 0x34, 0x12], Instr.lsrAbsX 0x1234), ([0x2A], Instr.rolAcc), ([0x26, 0x9C], Instr.rolZp 0x9C),
      ([0x36, 0x9C], Instr.rolZpX 0x9C), ([0x2E, 0x34, 0x12], Instr.rolAbs 0x1234), ([0x3E, 0x34, 0x12], Instr.rolAbsX 0x1234),
      ([0x6A], Instr.rorAcc), ([0x66, 0x9C], Instr.rorZp 0x9C), ([0x76, 0x9C], Instr.rorZpX 0x9C),
      ([0x6E, 0x34, 0x12], Instr.rorAbs 0x1234), ([0x7E, 0x34, 0x12], Instr.rorAbsX 0x1234)
      ] : List (List Byte × Instr)).all (fun x => decoded x.1 = some (x.2, []) ∧ encode x.2 = x.1) = true := by decide

theorem test_decode_inc_dec :
    ([([0xE6, 0x9C], Instr.incZp 0x9C), ([0xF6, 0x9C], Instr.incZpX 0x9C), ([0xEE, 0x34, 0x12], Instr.incAbs 0x1234),
      ([0xFE, 0x34, 0x12], Instr.incAbsX 0x1234), ([0xC6, 0x9C], Instr.decZp 0x9C), ([0xD6, 0x9C], Instr.decZpX 0x9C),
      ([0xCE, 0x34, 0x12], Instr.decAbs 0x1234), ([0xDE, 0x34, 0x12], Instr.decAbsX 0x1234), ([0xE8], Instr.inx),
      ([0xC8], Instr.iny), ([0xCA], Instr.dex), ([0x88], Instr.dey)
      ] : List (List Byte × Instr)).all (fun x => decoded x.1 = some (x.2, []) ∧ encode x.2 = x.1) = true := by decide

theorem test_decode_branch :
    ([([0x10, 0x9C], Instr.bpl 0x9C), ([0x30, 0x9C], Instr.bmi 0x9C), ([0x50, 0x9C], Instr.bvc 0x9C),
      ([0x70, 0x9C], Instr.bvs 0x9C), ([0x90, 0x9C], Instr.bcc 0x9C), ([0xB0, 0x9C], Instr.bcs 0x9C),
      ([0xD0, 0x9C], Instr.bne 0x9C), ([0xF0, 0x9C], Instr.beq 0x9C)
      ] : List (List Byte × Instr)).all (fun x => decoded x.1 = some (x.2, []) ∧ encode x.2 = x.1) = true := by decide

theorem test_decode_stack_call_return :
    ([([0x48], Instr.pha), ([0x08], Instr.php), ([0x68], Instr.pla),
      ([0x28], Instr.plp), ([0x20, 0x34, 0x12], Instr.jsrAbs 0x1234), ([0x60], Instr.rts),
      ([0x40], Instr.rti)
      ] : List (List Byte × Instr)).all (fun x => decoded x.1 = some (x.2, []) ∧ encode x.2 = x.1) = true := by decide

theorem test_decode_jump_flag_misc :
    ([([0x4C, 0x34, 0x12], Instr.jmpAbs 0x1234), ([0x6C, 0x34, 0x12], Instr.jmpInd 0x1234), ([0x18], Instr.clc),
      ([0x38], Instr.sec), ([0x58], Instr.cli), ([0x78], Instr.sei),
      ([0xD8], Instr.cld), ([0xF8], Instr.sed), ([0xB8], Instr.clv),
      ([0xEA], Instr.nop), ([0x00], Instr.brk)
      ] : List (List Byte × Instr)).all (fun x => decoded x.1 = some (x.2, []) ∧ encode x.2 = x.1) = true := by decide

theorem test_decode_refuses_undocumented :
    decode [0x02, 0x11] = .error (.unimplementedOpcode 0x02) ∧ decode [0x1A] = .error (.unimplementedOpcode 0x1A)
      ∧ decode [0xFF] = .error (.unimplementedOpcode 0xFF) := ⟨rfl, rfl, rfl⟩
theorem test_decode_refuses_truncated : decode [0xAD, 0x34] = .error .truncated ∧ decode [] = .error .truncated :=
  ⟨rfl, rfl⟩
theorem test_decodeTableWord_second_byte_is_bits_15_to_8 : decodeTableWord 24 0x1234AD = some (.ldaAbs 0x1234) := by decide
theorem test_decodeTableWord_operand_of_zeros : decodeTableWord 8 0xAD = some (.ldaAbs 0) := by decide


/-! ### One step of each mnemonic: the rows of spec/95_test_vectors.md, sections L2.3 to L2.11 -/

theorem test_lda_direct :
    seen [] (step { loaded 0x0600 [0xA9, 0x00] [] with p := 0x84 })
      = some [0x00, 0x00, 0x00, 0x06, 0xFD, 0x0602, 2] ∧
    seen [] (step (loaded 0x0600 [0xA9, 0x80] []))
      = some [0x80, 0x00, 0x00, 0x84, 0xFD, 0x0602, 2] ∧
    seen [] (step (loaded 0x0600 [0xA5, 0x44] [(0x044, 0x7F)]))
      = some [0x7F, 0x00, 0x00, 0x04, 0xFD, 0x0602, 3] ∧
    seen [] (step { loaded 0x0600 [0xB5, 0xFF] [(0x000, 0x33)] with x := 0x01 })
      = some [0x33, 0x01, 0x00, 0x04, 0xFD, 0x0602, 4] ∧
    seen [] (step (loaded 0x0600 [0xAD, 0x00, 0x02] [(0x200, 0x00)]))
      = some [0x00, 0x00, 0x00, 0x06, 0xFD, 0x0603, 4] ∧
    seen [] (step { loaded 0x0600 [0xBD, 0xF0, 0x02] [(0x310, 0x01)] with x := 0x20 })
      = some [0x01, 0x20, 0x00, 0x04, 0xFD, 0x0603, 5] := by decide

theorem test_lda_indexed :
    seen [] (step { loaded 0x0600 [0xB9, 0x00, 0x02] [(0x205, 0x44)] with y := 0x05 })
      = some [0x44, 0x00, 0x05, 0x04, 0xFD, 0x0603, 4] ∧
    seen [] (step { loaded 0x0600 [0xA1, 0x40] [(0x044, 0x00), (0x045, 0x02), (0x200, 0x5A)] with x := 0x04 })
      = some [0x5A, 0x04, 0x00, 0x04, 0xFD, 0x0602, 6] ∧
    seen [] (step { loaded 0x0600 [0xA1, 0xFE] [(0x000, 0x02), (0x0FF, 0x34), (0x234, 0x99)] with x := 0x01 })
      = some [0x99, 0x01, 0x00, 0x84, 0xFD, 0x0602, 6] ∧
    seen [] (step { loaded 0x0600 [0xB1, 0x40] [(0x040, 0x00), (0x041, 0x02), (0x205, 0x80)] with y := 0x05 })
      = some [0x80, 0x00, 0x05, 0x84, 0xFD, 0x0602, 5] ∧
    seen [] (step { loaded 0x0600 [0xB1, 0x40] [(0x040, 0xF0), (0x041, 0x02), (0x310, 0x00)] with y := 0x20 })
      = some [0x00, 0x00, 0x20, 0x06, 0xFD, 0x0602, 6] ∧
    seen [] (step { loaded 0x0600 [0xB1, 0xFF] [(0x000, 0x03), (0x0FF, 0x00), (0x300, 0x11)] with y := 0x00 })
      = some [0x11, 0x00, 0x00, 0x04, 0xFD, 0x0602, 5] := by decide

theorem test_ldx :
    seen [] (step (loaded 0x0600 [0xA2, 0xFF] []))
      = some [0x00, 0xFF, 0x00, 0x84, 0xFD, 0x0602, 2] ∧
    seen [] (step { loaded 0x0600 [0xB6, 0xF0] [(0x010, 0x00)] with y := 0x20 })
      = some [0x00, 0x00, 0x20, 0x06, 0xFD, 0x0602, 4] ∧
    seen [] (step { loaded 0x0600 [0xBE, 0xFF, 0x00] [(0x100, 0x05)] with y := 0x01 })
      = some [0x00, 0x05, 0x01, 0x04, 0xFD, 0x0603, 5] := by decide

theorem test_ldy :
    seen [] (step (loaded 0x0600 [0xA0, 0x01] []))
      = some [0x00, 0x00, 0x01, 0x04, 0xFD, 0x0602, 2] ∧
    seen [] (step { loaded 0x0600 [0xBC, 0x00, 0x02] [(0x203, 0x90)] with x := 0x03 })
      = some [0x00, 0x03, 0x90, 0x84, 0xFD, 0x0603, 4] ∧
    seen [] (step { loaded 0x0600 [0xB4, 0xFF] [(0x001, 0x00)] with x := 0x02 })
      = some [0x00, 0x02, 0x00, 0x06, 0xFD, 0x0602, 4] := by decide

theorem test_sta :
    seen [0x200] (step { loaded 0x0600 [0x8D, 0x00, 0x02] [] with a := 0x00, p := 0x80 })
      = some [0x00, 0x00, 0x00, 0x80, 0xFD, 0x0603, 4, 0x00] ∧
    seen [0x310] (step { loaded 0x0600 [0x9D, 0xF0, 0x02] [] with a := 0x42, x := 0x20 })
      = some [0x42, 0x20, 0x00, 0x04, 0xFD, 0x0603, 5, 0x42] ∧
    seen [0x201] (step { loaded 0x0600 [0x99, 0x00, 0x02] [] with a := 0x42, y := 0x01 })
      = some [0x42, 0x00, 0x01, 0x04, 0xFD, 0x0603, 5, 0x42] ∧
    seen [0x310] (step { loaded 0x0600 [0x91, 0x40] [(0x040, 0xF0), (0x041, 0x02)] with a := 0x42, y := 0x20 })
      = some [0x42, 0x00, 0x20, 0x04, 0xFD, 0x0602, 6, 0x42] ∧
    seen [0x200] (step { loaded 0x0600 [0x81, 0x40] [(0x044, 0x00), (0x045, 0x02)] with a := 0x07, x := 0x04 })
      = some [0x07, 0x04, 0x00, 0x04, 0xFD, 0x0602, 6, 0x07] ∧
    seen [0x010] (step { loaded 0x0600 [0x85, 0x10] [] with a := 0x99 })
      = some [0x99, 0x00, 0x00, 0x04, 0xFD, 0x0602, 3, 0x99] := by decide

theorem test_stx :
    seen [0x000] (step { loaded 0x0600 [0x96, 0xFF] [] with x := 0xAB, y := 0x01 })
      = some [0x00, 0xAB, 0x01, 0x04, 0xFD, 0x0602, 4, 0xAB] := by decide

theorem test_sty :
    seen [0x085] (step { loaded 0x0600 [0x94, 0x80] [] with x := 0x05, y := 0x99 })
      = some [0x00, 0x05, 0x99, 0x04, 0xFD, 0x0602, 4, 0x99] ∧
    seen [0x000] (step { loaded 0x0600 [0x8C, 0x00, 0x08] [] with y := 0x5C })
      = some [0x00, 0x00, 0x5C, 0x04, 0xFD, 0x0603, 4, 0x5C] := by decide

theorem test_tax :
    seen [] (step { loaded 0x0600 [0xAA] [] with a := 0x0A })
      = some [0x0A, 0x0A, 0x00, 0x04, 0xFD, 0x0601, 2] ∧
    seen [] (step { loaded 0x0600 [0xAA] [] with a := 0x00 })
      = some [0x00, 0x00, 0x00, 0x06, 0xFD, 0x0601, 2] := by decide

theorem test_tay :
    seen [] (step { loaded 0x0600 [0xA8] [] with a := 0x80 })
      = some [0x80, 0x00, 0x80, 0x84, 0xFD, 0x0601, 2] ∧
    seen [] (step { loaded 0x0600 [0xA8] [] with a := 0x01, p := 0x86 })
      = some [0x01, 0x00, 0x01, 0x04, 0xFD, 0x0601, 2] := by decide

theorem test_txa :
    seen [] (step { loaded 0x0600 [0x8A] [] with a := 0x55, x := 0x00 })
      = some [0x00, 0x00, 0x00, 0x06, 0xFD, 0x0601, 2] := by decide

theorem test_tya :
    seen [] (step { loaded 0x0600 [0x98] [] with y := 0x7F })
      = some [0x7F, 0x00, 0x7F, 0x04, 0xFD, 0x0601, 2] := by decide

theorem test_tsx :
    seen [] (step (loaded 0x0600 [0xBA] []))
      = some [0x00, 0xFD, 0x00, 0x84, 0xFD, 0x0601, 2] ∧
    seen [] (step { loaded 0x0600 [0xBA] [] with sp := 0x00 })
      = some [0x00, 0x00, 0x00, 0x06, 0x00, 0x0601, 2] := by decide

theorem test_txs :
    seen [] (step { loaded 0x0600 [0x9A] [] with x := 0x00 })
      = some [0x00, 0x00, 0x00, 0x04, 0x00, 0x0601, 2] ∧
    seen [] (step { loaded 0x0600 [0x9A] [] with x := 0xFF, p := 0x06 })
      = some [0x00, 0xFF, 0x00, 0x06, 0xFF, 0x0601, 2] := by decide

theorem test_adc_direct :
    seen [] (step { loaded 0x0600 [0x69, 0x10] [] with a := 0x50 })
      = some [0x60, 0x00, 0x00, 0x04, 0xFD, 0x0602, 2] ∧
    seen [] (step { loaded 0x0600 [0x69, 0x50] [] with a := 0x50 })
      = some [0xA0, 0x00, 0x00, 0xC4, 0xFD, 0x0602, 2] ∧
    seen [] (step { loaded 0x0600 [0x69, 0x01] [] with a := 0xFF })
      = some [0x00, 0x00, 0x00, 0x07, 0xFD, 0x0602, 2] ∧
    seen [] (step { loaded 0x0600 [0x69, 0x01] [] with a := 0x7F })
      = some [0x80, 0x00, 0x00, 0xC4, 0xFD, 0x0602, 2] ∧
    seen [] (step { loaded 0x0600 [0x69, 0x80] [] with a := 0x80 })
      = some [0x00, 0x00, 0x00, 0x47, 0xFD, 0x0602, 2] ∧
    seen [] (step { loaded 0x0600 [0x69, 0xFF] [] with a := 0xFF, p := 0x05 })
      = some [0xFF, 0x00, 0x00, 0x85, 0xFD, 0x0602, 2] := by decide

theorem test_adc_indexed :
    seen [] (step { loaded 0x0600 [0x69, 0x00] [] with a := 0x7F, p := 0x05 })
      = some [0x80, 0x00, 0x00, 0xC4, 0xFD, 0x0602, 2] ∧
    seen [] (step { loaded 0x0600 [0x69, 0x09] [] with a := 0x09, p := 0x0C })
      = some [0x12, 0x00, 0x00, 0x0C, 0xFD, 0x0602, 2] ∧
    seen [] (step { loaded 0x0600 [0x65, 0x10] [(0x010, 0x01)] with a := 0x01, p := 0x05 })
      = some [0x03, 0x00, 0x00, 0x04, 0xFD, 0x0602, 3] ∧
    seen [] (step { loaded 0x0600 [0x7D, 0xFF, 0x02] [(0x300, 0x01)] with a := 0x01, x := 0x01 })
      = some [0x02, 0x01, 0x00, 0x04, 0xFD, 0x0603, 5] ∧
    seen [] (step { loaded 0x0600 [0x71, 0x40] [(0x040, 0xF8), (0x041, 0x02), (0x308, 0x02)] with a := 0x01, y := 0x10 })
      = some [0x03, 0x00, 0x10, 0x04, 0xFD, 0x0602, 6] := by decide

theorem test_sbc_direct :
    seen [] (step { loaded 0x0600 [0xE9, 0xF0] [] with a := 0x50, p := 0x05 })
      = some [0x60, 0x00, 0x00, 0x04, 0xFD, 0x0602, 2] ∧
    seen [] (step { loaded 0x0600 [0xE9, 0xB0] [] with a := 0x50, p := 0x05 })
      = some [0xA0, 0x00, 0x00, 0xC4, 0xFD, 0x0602, 2] ∧
    seen [] (step { loaded 0x0600 [0xE9, 0x01] [] with a := 0x00, p := 0x05 })
      = some [0xFF, 0x00, 0x00, 0x84, 0xFD, 0x0602, 2] ∧
    seen [] (step { loaded 0x0600 [0xE9, 0x01] [] with a := 0x80, p := 0x05 })
      = some [0x7F, 0x00, 0x00, 0x45, 0xFD, 0x0602, 2] ∧
    seen [] (step { loaded 0x0600 [0xE9, 0x03] [] with a := 0x05, p := 0x04 })
      = some [0x01, 0x00, 0x00, 0x05, 0xFD, 0x0602, 2] ∧
    seen [] (step { loaded 0x0600 [0xE9, 0x05] [] with a := 0x05, p := 0x05 })
      = some [0x00, 0x00, 0x00, 0x07, 0xFD, 0x0602, 2] := by decide

theorem test_sbc_indexed :
    seen [] (step { loaded 0x0600 [0xE9, 0x00] [] with a := 0x00, p := 0x04 })
      = some [0xFF, 0x00, 0x00, 0x84, 0xFD, 0x0602, 2] ∧
    seen [] (step { loaded 0x0600 [0xE5, 0x10] [(0x010, 0x01)] with a := 0x10, p := 0x0D })
      = some [0x0F, 0x00, 0x00, 0x0D, 0xFD, 0x0602, 3] := by decide

theorem test_cmp :
    seen [] (step { loaded 0x0600 [0xC9, 0x40] [] with a := 0x40 })
      = some [0x40, 0x00, 0x00, 0x07, 0xFD, 0x0602, 2] ∧
    seen [] (step { loaded 0x0600 [0xC9, 0x20] [] with a := 0x10 })
      = some [0x10, 0x00, 0x00, 0x84, 0xFD, 0x0602, 2] ∧
    seen [] (step { loaded 0x0600 [0xC9, 0x01] [] with a := 0x80, p := 0x44 })
      = some [0x80, 0x00, 0x00, 0x45, 0xFD, 0x0602, 2] ∧
    seen [] (step { loaded 0x0600 [0xC9, 0x80] [] with a := 0x00 })
      = some [0x00, 0x00, 0x00, 0x84, 0xFD, 0x0602, 2] ∧
    seen [] (step { loaded 0x0600 [0xD9, 0xFF, 0x02] [(0x300, 0x05)] with a := 0x05, y := 0x01 })
      = some [0x05, 0x00, 0x01, 0x07, 0xFD, 0x0603, 5] := by decide

theorem test_cpx :
    seen [] (step { loaded 0x0600 [0xE0, 0x05] [] with x := 0x05 })
      = some [0x00, 0x05, 0x00, 0x07, 0xFD, 0x0602, 2] ∧
    seen [] (step { loaded 0x0600 [0xE0, 0xFF] [] with x := 0x00 })
      = some [0x00, 0x00, 0x00, 0x04, 0xFD, 0x0602, 2] ∧
    seen [] (step { loaded 0x0600 [0xE4, 0x10] [(0x010, 0x10)] with x := 0x20 })
      = some [0x00, 0x20, 0x00, 0x05, 0xFD, 0x0602, 3] := by decide

theorem test_cpy :
    seen [] (step { loaded 0x0600 [0xC0, 0x04] [] with y := 0x03 })
      = some [0x00, 0x00, 0x03, 0x84, 0xFD, 0x0602, 2] ∧
    seen [] (step { loaded 0x0600 [0xC0, 0x00] [] with y := 0xFF })
      = some [0x00, 0x00, 0xFF, 0x85, 0xFD, 0x0602, 2] ∧
    seen [] (step { loaded 0x0600 [0xCC, 0x00, 0x02] [(0x200, 0x10)] with y := 0x10 })
      = some [0x00, 0x00, 0x10, 0x07, 0xFD, 0x0603, 4] := by decide

theorem test_and :
    seen [] (step { loaded 0x0600 [0x29, 0x3C] [] with a := 0xF0 })
      = some [0x30, 0x00, 0x00, 0x04, 0xFD, 0x0602, 2] ∧
    seen [] (step { loaded 0x0600 [0x29, 0x00] [] with a := 0xFF, p := 0x85 })
      = some [0x00, 0x00, 0x00, 0x07, 0xFD, 0x0602, 2] ∧
    seen [] (step { loaded 0x0600 [0x3D, 0xFF, 0x02] [(0x300, 0x80)] with a := 0xFF, x := 0x01 })
      = some [0x80, 0x01, 0x00, 0x84, 0xFD, 0x0603, 5] := by decide

theorem test_ora :
    seen [] (step { loaded 0x0600 [0x09, 0x80] [] with a := 0x0F })
      = some [0x8F, 0x00, 0x00, 0x84, 0xFD, 0x0602, 2] ∧
    seen [] (step { loaded 0x0600 [0x05, 0x10] [(0x010, 0x00)] with a := 0x00 })
      = some [0x00, 0x00, 0x00, 0x06, 0xFD, 0x0602, 3] := by decide

theorem test_eor :
    seen [] (step { loaded 0x0600 [0x49, 0xFF] [] with a := 0xAA })
      = some [0x55, 0x00, 0x00, 0x04, 0xFD, 0x0602, 2] ∧
    seen [] (step { loaded 0x0600 [0x49, 0x5A] [] with a := 0x5A })
      = some [0x00, 0x00, 0x00, 0x06, 0xFD, 0x0602, 2] := by decide

theorem test_bit :
    seen [] (step { loaded 0x0600 [0x24, 0x10] [(0x010, 0xC0)] with a := 0x01 })
      = some [0x01, 0x00, 0x00, 0xC6, 0xFD, 0x0602, 3] ∧
    seen [] (step { loaded 0x0600 [0x2C, 0x00, 0x02] [(0x200, 0x01)] with a := 0xFF, p := 0xC4 })
      = some [0xFF, 0x00, 0x00, 0x04, 0xFD, 0x0603, 4] ∧
    seen [] (step { loaded 0x0600 [0x24, 0x10] [(0x010, 0x40)] with a := 0x40 })
      = some [0x40, 0x00, 0x00, 0x44, 0xFD, 0x0602, 3] := by decide

theorem test_asl :
    seen [] (step { loaded 0x0600 [0x0A] [] with a := 0x41 })
      = some [0x82, 0x00, 0x00, 0x84, 0xFD, 0x0601, 2] ∧
    seen [] (step { loaded 0x0600 [0x0A] [] with a := 0x80 })
      = some [0x00, 0x00, 0x00, 0x07, 0xFD, 0x0601, 2] ∧
    seen [0x010] (step (loaded 0x0600 [0x06, 0x10] [(0x010, 0xC0)]))
      = some [0x00, 0x00, 0x00, 0x85, 0xFD, 0x0602, 5, 0x80] ∧
    seen [0x200] (step { loaded 0x0600 [0x1E, 0xFF, 0x01] [(0x200, 0x01)] with x := 0x01 })
      = some [0x00, 0x01, 0x00, 0x04, 0xFD, 0x0603, 7, 0x02] := by decide

theorem test_lsr :
    seen [] (step { loaded 0x0600 [0x4A] [] with a := 0x01 })
      = some [0x00, 0x00, 0x00, 0x07, 0xFD, 0x0601, 2] ∧
    seen [] (step { loaded 0x0600 [0x4A] [] with a := 0xFF, p := 0x84 })
      = some [0x7F, 0x00, 0x00, 0x05, 0xFD, 0x0601, 2] ∧
    seen [0x010] (step (loaded 0x0600 [0x46, 0x10] [(0x010, 0x03)]))
      = some [0x00, 0x00, 0x00, 0x05, 0xFD, 0x0602, 5, 0x01] := by decide

theorem test_rol :
    seen [] (step { loaded 0x0600 [0x2A] [] with a := 0x40, p := 0x05 })
      = some [0x81, 0x00, 0x00, 0x84, 0xFD, 0x0601, 2] ∧
    seen [] (step { loaded 0x0600 [0x2A] [] with a := 0x80 })
      = some [0x00, 0x00, 0x00, 0x07, 0xFD, 0x0601, 2] ∧
    seen [0x011] (step { loaded 0x0600 [0x36, 0x10] [(0x011, 0x00)] with x := 0x01, p := 0x05 })
      = some [0x00, 0x01, 0x00, 0x04, 0xFD, 0x0602, 6, 0x01] := by decide

theorem test_ror :
    seen [] (step { loaded 0x0600 [0x6A] [] with a := 0x02, p := 0x05 })
      = some [0x81, 0x00, 0x00, 0x84, 0xFD, 0x0601, 2] ∧
    seen [] (step { loaded 0x0600 [0x6A] [] with a := 0x01 })
      = some [0x00, 0x00, 0x00, 0x07, 0xFD, 0x0601, 2] ∧
    seen [0x200] (step { loaded 0x0600 [0x6E, 0x00, 0x02] [(0x200, 0x00)] with p := 0x05 })
      = some [0x00, 0x00, 0x00, 0x84, 0xFD, 0x0603, 6, 0x80] := by decide

theorem test_inc :
    seen [0x010] (step { loaded 0x0600 [0xE6, 0x10] [(0x010, 0xFF)] with p := 0x05 })
      = some [0x00, 0x00, 0x00, 0x07, 0xFD, 0x0602, 5, 0x00] ∧
    seen [0x012] (step { loaded 0x0600 [0xF6, 0x10] [(0x012, 0x7F)] with x := 0x02 })
      = some [0x00, 0x02, 0x00, 0x84, 0xFD, 0x0602, 6, 0x80] ∧
    seen [0x300] (step { loaded 0x0600 [0xFE, 0xFF, 0x02] [(0x300, 0x00)] with x := 0x01 })
      = some [0x00, 0x01, 0x00, 0x04, 0xFD, 0x0603, 7, 0x01] := by decide

theorem test_dec :
    seen [0x200] (step (loaded 0x0600 [0xCE, 0x00, 0x02] [(0x200, 0x00)]))
      = some [0x00, 0x00, 0x00, 0x84, 0xFD, 0x0603, 6, 0xFF] ∧
    seen [0x201] (step { loaded 0x0600 [0xDE, 0x00, 0x02] [(0x201, 0x01)] with x := 0x01 })
      = some [0x00, 0x01, 0x00, 0x06, 0xFD, 0x0603, 7, 0x00] := by decide

theorem test_inx :
    seen [] (step { loaded 0x0600 [0xE8] [] with x := 0xFF })
      = some [0x00, 0x00, 0x00, 0x06, 0xFD, 0x0601, 2] ∧
    seen [] (step { loaded 0x0600 [0xE8] [] with x := 0x7F })
      = some [0x00, 0x80, 0x00, 0x84, 0xFD, 0x0601, 2] := by decide

theorem test_iny :
    seen [] (step { loaded 0x0600 [0xC8] [] with y := 0x00 })
      = some [0x00, 0x00, 0x01, 0x04, 0xFD, 0x0601, 2] ∧
    seen [] (step { loaded 0x0600 [0xC8] [] with y := 0xFF })
      = some [0x00, 0x00, 0x00, 0x06, 0xFD, 0x0601, 2] := by decide

theorem test_dex :
    seen [] (step { loaded 0x0600 [0xCA] [] with x := 0x00 })
      = some [0x00, 0xFF, 0x00, 0x84, 0xFD, 0x0601, 2] ∧
    seen [] (step { loaded 0x0600 [0xCA] [] with x := 0x01 })
      = some [0x00, 0x00, 0x00, 0x06, 0xFD, 0x0601, 2] := by decide

theorem test_dey :
    seen [] (step { loaded 0x0600 [0x88] [] with y := 0x80 })
      = some [0x00, 0x00, 0x7F, 0x04, 0xFD, 0x0601, 2] ∧
    seen [] (step { loaded 0x0600 [0x88] [] with y := 0x00 })
      = some [0x00, 0x00, 0xFF, 0x84, 0xFD, 0x0601, 2] := by decide

theorem test_bpl :
    seen [] (step { loaded 0x0600 [0x10, 0xFC] [] with p := 0x04 })
      = some [0x00, 0x00, 0x00, 0x04, 0xFD, 0x05FE, 4] ∧
    seen [] (step { loaded 0x0600 [0x10, 0xFC] [] with p := 0x84 })
      = some [0x00, 0x00, 0x00, 0x84, 0xFD, 0x0602, 2] := by decide

theorem test_bmi :
    seen [] (step { loaded 0x0600 [0x30, 0x10] [] with p := 0x84 })
      = some [0x00, 0x00, 0x00, 0x84, 0xFD, 0x0612, 3] ∧
    seen [] (step { loaded 0x0600 [0x30, 0x10] [] with p := 0x04 })
      = some [0x00, 0x00, 0x00, 0x04, 0xFD, 0x0602, 2] := by decide

theorem test_bvc :
    seen [] (step { loaded 0x0600 [0x50, 0x10] [] with p := 0x44 })
      = some [0x00, 0x00, 0x00, 0x44, 0xFD, 0x0602, 2] ∧
    seen [] (step { loaded 0x0600 [0x50, 0x10] [] with p := 0x04 })
      = some [0x00, 0x00, 0x00, 0x04, 0xFD, 0x0612, 3] := by decide

theorem test_bvs :
    seen [] (step { loaded 0x0600 [0x70, 0x80] [] with p := 0x44 })
      = some [0x00, 0x00, 0x00, 0x44, 0xFD, 0x0582, 4] ∧
    seen [] (step { loaded 0x0600 [0x70, 0x80] [] with p := 0x04 })
      = some [0x00, 0x00, 0x00, 0x04, 0xFD, 0x0602, 2] := by decide

theorem test_bcc :
    seen [] (step { loaded 0x0600 [0x90, 0x7F] [] with p := 0x04 })
      = some [0x00, 0x00, 0x00, 0x04, 0xFD, 0x0681, 3] ∧
    seen [] (step { loaded 0x0600 [0x90, 0x7F] [] with p := 0x05 })
      = some [0x00, 0x00, 0x00, 0x05, 0xFD, 0x0602, 2] := by decide

theorem test_bcs :
    seen [] (step { loaded 0x0600 [0xB0, 0x05] [] with p := 0x04 })
      = some [0x00, 0x00, 0x00, 0x04, 0xFD, 0x0602, 2] ∧
    seen [] (step { loaded 0x07F0 [0xB0, 0x7F] [] with p := 0x05 })
      = some [0x00, 0x00, 0x00, 0x05, 0xFD, 0x0871, 4] := by decide

theorem test_bne :
    seen [] (step { loaded 0x0605 [0xD0, 0xFB] [] with p := 0x04 })
      = some [0x00, 0x00, 0x00, 0x04, 0xFD, 0x0602, 3] ∧
    seen [] (step { loaded 0x0605 [0xD0, 0xFB] [] with p := 0x06 })
      = some [0x00, 0x00, 0x00, 0x06, 0xFD, 0x0607, 2] := by decide

theorem test_beq :
    seen [] (step { loaded 0x0600 [0xF0, 0x02] [] with p := 0x06 })
      = some [0x00, 0x00, 0x00, 0x06, 0xFD, 0x0604, 3] ∧
    seen [] (step { loaded 0x0600 [0xF0, 0xFE] [] with p := 0x06 })
      = some [0x00, 0x00, 0x00, 0x06, 0xFD, 0x0600, 3] ∧
    seen [] (step { loaded 0x0600 [0xF0, 0x00] [] with p := 0x06 })
      = some [0x00, 0x00, 0x00, 0x06, 0xFD, 0x0602, 3] := by decide

theorem test_pha :
    seen [0x1FD] (step { loaded 0x0600 [0x48] [] with a := 0x42 })
      = some [0x42, 0x00, 0x00, 0x04, 0xFC, 0x0601, 3, 0x42] ∧
    seen [0x100] (step { loaded 0x0600 [0x48] [] with a := 0x42, sp := 0x00 })
      = some [0x42, 0x00, 0x00, 0x04, 0xFF, 0x0601, 3, 0x42] := by decide

theorem test_php :
    seen [0x1FD] (step (loaded 0x0600 [0x08] []))
      = some [0x00, 0x00, 0x00, 0x04, 0xFC, 0x0601, 3, 0x34] ∧
    seen [0x1FD] (step { loaded 0x0600 [0x08] [] with p := 0xC3 })
      = some [0x00, 0x00, 0x00, 0xC3, 0xFC, 0x0601, 3, 0xF3] := by decide

theorem test_pla :
    seen [] (step { loaded 0x0600 [0x68] [(0x1FD, 0x00)] with sp := 0xFC })
      = some [0x00, 0x00, 0x00, 0x06, 0xFD, 0x0601, 4] ∧
    seen [] (step { loaded 0x0600 [0x68] [(0x100, 0x80)] with sp := 0xFF })
      = some [0x80, 0x00, 0x00, 0x84, 0x00, 0x0601, 4] := by decide

theorem test_plp :
    seen [] (step { loaded 0x0600 [0x28] [(0x1FD, 0xFF)] with sp := 0xFC })
      = some [0x00, 0x00, 0x00, 0xEF, 0xFD, 0x0601, 4] ∧
    seen [] (step { loaded 0x0600 [0x28] [(0x1FD, 0x00)] with sp := 0xFC })
      = some [0x00, 0x00, 0x00, 0x20, 0xFD, 0x0601, 4] := by decide

theorem test_jsr :
    seen [0x1FC, 0x1FD] (step (loaded 0x0600 [0x20, 0x00, 0x07] []))
      = some [0x00, 0x00, 0x00, 0x04, 0xFB, 0x0700, 6, 0x02, 0x06] ∧
    seen [0x100, 0x1FF] (step { loaded 0x0600 [0x20, 0x00, 0x07] [] with sp := 0x00 })
      = some [0x00, 0x00, 0x00, 0x04, 0xFE, 0x0700, 6, 0x06, 0x02] := by decide

theorem test_rts :
    seen [] (step { loaded 0x0600 [0x60] [(0x1FC, 0x02), (0x1FD, 0x06)] with sp := 0xFB })
      = some [0x00, 0x00, 0x00, 0x04, 0xFD, 0x0603, 6] ∧
    seen [] (step { loaded 0x0600 [0x60] [(0x1FC, 0xFF), (0x1FD, 0xFF)] with sp := 0xFB })
      = some [0x00, 0x00, 0x00, 0x04, 0xFD, 0x0000, 6] := by decide

theorem test_rti :
    seen [] (step { loaded 0x0600 [0x40] [(0x1FB, 0x83), (0x1FC, 0x34), (0x1FD, 0x12)] with sp := 0xFA })
      = some [0x00, 0x00, 0x00, 0xA3, 0xFD, 0x1234, 6] ∧
    seen [] (step { loaded 0x0600 [0x40] [(0x1FB, 0x30), (0x1FC, 0x00), (0x1FD, 0x07)] with sp := 0xFA })
      = some [0x00, 0x00, 0x00, 0x20, 0xFD, 0x0700, 6] := by decide

theorem test_jmp :
    seen [] (step (loaded 0x0600 [0x4C, 0x34, 0x12] []))
      = some [0x00, 0x00, 0x00, 0x04, 0xFD, 0x1234, 3] ∧
    seen [] (step (loaded 0x0600 [0x4C, 0x00, 0x06] []))
      = some [0x00, 0x00, 0x00, 0x04, 0xFD, 0x0600, 3] ∧
    seen [] (step (loaded 0x0600 [0x6C, 0xFF, 0x02] [(0x200, 0x06), (0x2FF, 0x20), (0x300, 0x99)]))
      = some [0x00, 0x00, 0x00, 0x04, 0xFD, 0x0620, 5] ∧
    seen [] (step (loaded 0x0600 [0x6C, 0x10, 0x02] [(0x210, 0x78), (0x211, 0x56)]))
      = some [0x00, 0x00, 0x00, 0x04, 0xFD, 0x5678, 5] := by decide

theorem test_clc :
    seen [] (step { loaded 0x0600 [0x18] [] with p := 0x25 })
      = some [0x00, 0x00, 0x00, 0x24, 0xFD, 0x0601, 2] := by decide

theorem test_sec :
    seen [] (step { loaded 0x0600 [0x38] [] with p := 0x24 })
      = some [0x00, 0x00, 0x00, 0x25, 0xFD, 0x0601, 2] := by decide

theorem test_cli :
    seen [] (step { loaded 0x0600 [0x58] [] with p := 0x24 })
      = some [0x00, 0x00, 0x00, 0x20, 0xFD, 0x0601, 2] := by decide

theorem test_sei :
    seen [] (step { loaded 0x0600 [0x78] [] with p := 0x20 })
      = some [0x00, 0x00, 0x00, 0x24, 0xFD, 0x0601, 2] := by decide

theorem test_cld :
    seen [] (step { loaded 0x0600 [0xD8] [] with p := 0x2C })
      = some [0x00, 0x00, 0x00, 0x24, 0xFD, 0x0601, 2] := by decide

theorem test_sed :
    seen [] (step { loaded 0x0600 [0xF8] [] with p := 0x24 })
      = some [0x00, 0x00, 0x00, 0x2C, 0xFD, 0x0601, 2] := by decide

theorem test_clv :
    seen [] (step { loaded 0x0600 [0xB8] [] with p := 0x64 })
      = some [0x00, 0x00, 0x00, 0x24, 0xFD, 0x0601, 2] := by decide

theorem test_nop :
    seen [] (step (loaded 0x0600 [0xEA] []))
      = some [0x00, 0x00, 0x00, 0x04, 0xFD, 0x0601, 2] := by decide

theorem test_brk :
    seen [] (step (loaded 0x0600 [0x00] []))
      = some [0x00, 0x00, 0x00, 0x04, 0xFD, 0x0601, 7] := by decide

/-! ### Delegates: reads and writes outside RAM -/

/-- CART with declared contents. -/
def withCart (rom : Memory) (s : State) : State := { s with cart := { s.cart with rom := rom } }

theorem test_lda_reads_cart :
    seen [] (step (withCart [(0x8000, 0xEA)] (loaded 0x0600 [0xAD, 0x00, 0x80] [])))
      = some [0xEA, 0x00, 0x00, 0x84, 0xFD, 0x0603, 4] := by decide
theorem test_jmp_indirect_pointer_ffff :
    seen [] (step (withCart [(0xFF00, 0x07), (0xFFFF, 0x00)] (loaded 0x0600 [0x6C, 0xFF, 0xFF] [])))
      = some [0x00, 0x00, 0x00, 0x04, 0xFD, 0x0700, 5] := by decide
theorem test_stx_to_ppu_window :
    (match step { loaded 0x0600 [0x8E, 0x00, 0x20] [] with x := 0x01 } with
      | .next t => some (t.ppu.events, t.ram)
      | _ => none) = some ([.write 0x2000 0x01], [(0x600, 0x8E), (0x601, 0x00), (0x602, 0x20)]) := by decide
/-- A machine at `6C FF 30`, with PPU targets 0x2000 and 0x2007 holding the pointer. -/
def jumpThroughPpu : State := { loaded 0x0600 [0x6C, 0xFF, 0x30] [] with ppu := ⟨[(0x2000, 0x50), (0x2007, 0x80)], [], []⟩ }
theorem test_jmp_indirect_bug_in_ppu_window :
    seen [] (step jumpThroughPpu) = some [0x00, 0x00, 0x00, 0x04, 0xFD, 0x5080, 5] := by decide
/-- L1.4: its pointer reads are at PPU targets 0x2007 and then 0x2000. -/
theorem test_jmp_indirect_reads_in_order :
    (match step jumpThroughPpu with
      | .next t => some t.ppu.events
      | _ => none) = some (recordRead .ppu 0x2000 (recordRead .ppu 0x2007 [])) := by rfl
/-- Bus vector 6: two reads at a target with a side effect are two events; neither is merged nor suppressed. -/
theorem test_side_effect_twice (h : Config.readHasSideEffect .ppu 0x2002 = true) :
    ((State.reset.afterRead 0x2002).afterRead 0x2002).ppu.events = [.read 0x2002, .read 0x2002] := by
  show recordRead .ppu 0x2002 (recordRead .ppu 0x2002 []) = _
  rw [recordRead_of_effect _ h, recordRead_of_effect _ h]
theorem test_read16_wraps_from_cart_to_ram :
    (memRead16 0xFFFF (withCart [(0xFFFF, 0xCD)] (loaded 0x0600 [] [(0, 0x12)]))).1 = 0x12CD := by decide
theorem test_route_edges :
    [0x07FF, 0x0800, 0x1FFF, 0x2000, 0x3456, 0x3FFF, 0x4000, 0x7FFF, 0x8000, 0xFFFF].map route
      = [.ram 0x7FF, .ram 0, .ram 0x7FF, .delegate .ppu 0x2000, .delegate .ppu 0x2006, .delegate .ppu 0x2007,
         .delegate .io 0x4000, .delegate .io 0x7FFF, .delegate .cart 0x8000, .delegate .cart 0xFFFF] := by decide

/-! ### Outcomes of a step, interrupts and the host (spec/95_test_vectors.md, sections L2.12 and L2.13) -/

/-- CART holding the three vectors of L2.12. -/
def vectors : Memory := [(0xFFFA, 0x10), (0xFFFB, 0x07), (0xFFFC, 0x00), (0xFFFD, 0x06), (0xFFFE, 0x00), (0xFFFF, 0x07)]

theorem test_step_before_reset : sessionStep State.construct = (State.construct, .refused .notInitialised) := by decide
theorem test_fault_is_precise :
    sessionStep (loaded 0x0600 [0x02] [])
      = ({ loaded 0x0600 [0x02] [] with fault := some (.unimplementedOpcode 0x02 0x0600) },
          .fault (.unimplementedOpcode 0x02 0x0600)) := by rfl
theorem test_fault_wins_over_nmi :
    (sessionStep { loaded 0x0600 [0xEA] [] with
      fault := some (.unimplementedOpcode 0x02 0x0600), nmiPending := true }).2
      = .fault (.unimplementedOpcode 0x02 0x0600) := by decide
theorem test_reset_keeps_fault_and_irq_line :
    let t := hostReset { withCart vectors (loaded 0x0600 [] []) with
      fault := some (.unimplementedOpcode 0x02 0x0600), irqLine := true, nmiPending := true, run := .halted, cycles := 2 }
    (t.fault, t.irqLine, t.nmiPending, t.run, t.pc, t.cycles)
      = (some (.unimplementedOpcode 0x02 0x0600), true, false, RunState.running, 0x0600, 2) := by decide
theorem test_reset_registers :
    let t := hostReset (withCart [(0xFFFC, 0x34), (0xFFFD, 0x12)]
      { State.reset with a := 0x11, x := 0x22, y := 0x33, p := 0xFF, sp := 0x10, run := .halted })
    (t.a, t.x, t.y, t.p, t.sp, t.pc) = (0x00, 0x00, 0x00, 0x04, 0xFD, 0x1234) := by decide
theorem test_halted_step_changes_nothing :
    let s := { loaded 0x0600 [0xEA] [] with run := .halted, nmiPending := true }
    sessionStep s = (s, .halted) := by rfl
theorem test_nmi_entry :
    let s := { withCart vectors (loaded 0x0600 [0xEA] []) with p := 0x84, nmiPending := true }
    (sessionStep s).2 = .interrupt .nmi ∧ (sessionStep s).1.nmiPending = false
      ∧ seen [0x1FD, 0x1FC, 0x1FB] (step s)
          = some [0x00, 0x00, 0x00, 0x84, 0xFA, 0x0710, 7, 0x06, 0x00, 0xA4] := by decide
theorem test_irq_masked_by_i :
    seen [] (step { withCart vectors (loaded 0x0600 [0xEA] []) with irqLine := true })
      = some [0x00, 0x00, 0x00, 0x04, 0xFD, 0x0601, 2] := by decide
theorem test_irq_entry :
    seen [0x1FD, 0x1FC, 0x1FB] (step { withCart vectors (loaded 0x0601 [0xEA] []) with irqLine := true, p := 0x00 })
      = some [0x00, 0x00, 0x00, 0x04, 0xFA, 0x0700, 7, 0x06, 0x01, 0x20] := by decide
theorem test_nmi_before_irq :
    (sessionStep { withCart vectors (loaded 0x0600 [0x58] []) with
      irqLine := true, nmiPending := true, p := 0x00 }).2 = .interrupt .nmi := by decide
theorem test_load_writes_in_order_through_mirrors :
    (hostLoad 0x07FF [0x11, 0x22] State.reset).ram = [(0, 0x22), (0x7FF, 0x11)] := by decide
theorem test_withFetchWord_runs_as_first_step :
    seen [] (step (State.reset.withFetchWord 16 0x05A9))
      = some [0x05, 0x00, 0x00, 0x04, 0xFD, 0x0602, 2] := by decide

/-! ### The tracer (spec/95_test_vectors.md, section L2.14) -/

/-- The line of a state as a string. -/
def line (s : State) : String :=
  match trace s with
  | .ok t => String.ofList t
  | .error _ => "refused"

theorem test_trace_Implied :
    line (loaded 0x0600 [0xEA] [])
      = "0600  EA        NOP                             A:00 X:00 Y:00 P:04 SP:FD" := by decide

theorem test_trace_Implied_halt :
    line (loaded 0x0600 [0x00] [])
      = "0600  00        BRK                             A:00 X:00 Y:00 P:04 SP:FD" := by decide

theorem test_trace_Accumulator :
    line { loaded 0x0600 [0x0A] [] with a := 0x41 }
      = "0600  0A        ASL A                           A:41 X:00 Y:00 P:04 SP:FD" := by decide

theorem test_trace_Immediate :
    line (loaded 0x0600 [0xA9, 0x05] [])
      = "0600  A9 05     LDA #$05                        A:00 X:00 Y:00 P:04 SP:FD" := by decide

theorem test_trace_ZeroPage :
    line (loaded 0x0600 [0xA5, 0x44] [(0x044, 0x05)])
      = "0600  A5 44     LDA $44 = 05                    A:00 X:00 Y:00 P:04 SP:FD" := by decide

theorem test_trace_ZeroPage_store_value_before :
    line { loaded 0x0600 [0x85, 0x10] [(0x010, 0x01)] with a := 0x99 }
      = "0600  85 10     STA $10 = 01                    A:99 X:00 Y:00 P:04 SP:FD" := by decide

theorem test_trace_ZeroPage_X :
    line { loaded 0x0600 [0xB5, 0xFF] [(0x000, 0x33)] with x := 0x01 }
      = "0600  B5 FF     LDA $FF,X @ 00 = 33             A:00 X:01 Y:00 P:04 SP:FD" := by decide

theorem test_trace_ZeroPage_Y :
    line { loaded 0x0600 [0xB6, 0x10] [(0x012, 0xAB)] with y := 0x02 }
      = "0600  B6 10     LDX $10,Y @ 12 = AB             A:00 X:00 Y:02 P:04 SP:FD" := by decide

theorem test_trace_Absolute :
    line (loaded 0x0600 [0xAD, 0x00, 0x02] [(0x200, 0x5A)])
      = "0600  AD 00 02  LDA $0200 = 5A                  A:00 X:00 Y:00 P:04 SP:FD" := by decide

theorem test_trace_Absolute_JMP :
    line (loaded 0x0600 [0x4C, 0x34, 0x12] [])
      = "0600  4C 34 12  JMP $1234                       A:00 X:00 Y:00 P:04 SP:FD" := by decide

theorem test_trace_Absolute_JSR :
    line (loaded 0x0600 [0x20, 0x00, 0x07] [])
      = "0600  20 00 07  JSR $0700                       A:00 X:00 Y:00 P:04 SP:FD" := by decide

theorem test_trace_Absolute_X :
    line { loaded 0x0600 [0xBD, 0xF0, 0x02] [(0x310, 0x01)] with x := 0x20 }
      = "0600  BD F0 02  LDA $02F0,X @ 0310 = 01         A:00 X:20 Y:00 P:04 SP:FD" := by decide

theorem test_trace_Absolute_Y :
    line { loaded 0x0600 [0xB9, 0x00, 0x02] [(0x205, 0x44)] with y := 0x05 }
      = "0600  B9 00 02  LDA $0200,Y @ 0205 = 44         A:00 X:00 Y:05 P:04 SP:FD" := by decide

theorem test_trace_Indirect :
    line (loaded 0x0600 [0x6C, 0xFF, 0x02] [(0x200, 0x06), (0x2FF, 0x20)])
      = "0600  6C FF 02  JMP ($02FF) = 0620              A:00 X:00 Y:00 P:04 SP:FD" := by decide

theorem test_trace_Indirect_X :
    line { loaded 0x0600 [0xA1, 0x40] [(0x044, 0x00), (0x045, 0x02), (0x200, 0x5A)] with x := 0x04 }
      = "0600  A1 40     LDA ($40,X) @ 44 = 0200 = 5A    A:00 X:04 Y:00 P:04 SP:FD" := by decide

theorem test_trace_Indirect_Y :
    line { loaded 0x0600 [0xB1, 0x40] [(0x040, 0xF0), (0x041, 0x02), (0x310, 0x7E)] with y := 0x20 }
      = "0600  B1 40     LDA ($40),Y = 02F0 @ 0310 = 7E  A:00 X:00 Y:20 P:04 SP:FD" := by decide

theorem test_trace_Relative :
    line (loaded 0x0600 [0xD0, 0xFB] [])
      = "0600  D0 FB     BNE $05FD                       A:00 X:00 Y:00 P:04 SP:FD" := by decide

theorem test_trace_Relative_backwards_across_a_page :
    line (loaded 0x0600 [0x10, 0x80] [])
      = "0600  10 80     BPL $0582                       A:00 X:00 Y:00 P:04 SP:FD" := by decide

theorem test_trace_Byte_not_in_the_table :
    line (loaded 0x0600 [0x02] [])
      = "0600  02        ???                             A:00 X:00 Y:00 P:04 SP:FD" := by decide
/-- L2.14: 0x300A routes to PPU target 0x2002; where its read has a side effect the value is left out. -/
theorem test_trace_side_effect_through_a_mirror (h : Config.readHasSideEffect .ppu 0x2002 = true) :
    operandRendering .lda (.absolute 0x300A) State.reset = "$300A".toList := by
  show "$300A".toList ++ (if Config.readHasSideEffect .ppu 0x2002 then [] else _) = _
  rw [if_pos h]
  rfl

/-! ### Witnesses: for each statement with hypotheses, a state and operands that meet them all -/

/-- Code `A9 05` at 0x0600 after reset. -/
def start : State := loaded 0x0600 [0xA9, 0x05] []

theorem start_fetches : fetches start := by unfold fetches; decide

theorem witness_EncodeOfDecodedBytesGivesBytesBack : decode [0xA9, 0x05, 0x00] = .ok (.ldaImm 0x05, [0x00]) := rfl
theorem witness_UndocumentedBytesRaiseThePreciseFault :
    (0x02 : Byte).toNat ∈ undocumentedOpcodes ∧ (0xFF : Byte).toNat ∈ undocumentedOpcodes
      ∧ fetches (loaded 0x0600 [0x02] [])
      ∧ ((loaded 0x0600 [0x02] []).busByte (loaded 0x0600 [0x02] []).pc).toNat ∈ undocumentedOpcodes := by
  unfold fetches
  decide
theorem witness_AddressMapGivesEachAddressItsOwner :
    (0x1FFF : Word).toNat ≤ 0x1FFF ∧ (0x2000 ≤ (0x2000 : Word).toNat ∧ (0x3FFF : Word).toNat ≤ 0x3FFF)
      ∧ (0x4000 ≤ (0x4000 : Word).toNat ∧ (0x7FFF : Word).toNat ≤ 0x7FFF) ∧ 0x8000 ≤ (0x8000 : Word).toNat := by decide
theorem witness_RamMirrorsShareOneCell :
    (0x0000 : Word).toNat ≤ 0x1FFF ∧ (0x1800 : Word).toNat ≤ 0x1FFF ∧ (0x0000 : Word) &&& 0x07FF = 0x1800 &&& 0x07FF
      ∧ (0x1FFF : Word) &&& 0x07FF ≠ 0x1800 &&& 0x07FF ∧ Memory.get? start.ram ((0x1FFF : Word).toNat % 2048) = none := by
  decide
theorem witness_DelegateSeesEachAccessOnce :
    route 0x2008 = .delegate .ppu 0x2000 ∧ route 0x7FFF = .delegate .io 0x7FFF ∧ route 0xFFFF = .delegate .cart 0xFFFF := by
  decide
theorem witness_SixteenBitAccessesAreLittleEndian : (0x1FFE : Word).toNat < 0x1FFF := by decide
theorem witness_PushThenPullReturnsTheByte : 0x1FE ≠ 0x100 + start.sp.toNat := by decide
theorem witness_DirectModesResolve :
    Operand.zeroPageX 0xFF ∈ [Operand.immediate 0xFF, .zeroPage 0xFF, .zeroPageX 0xFF] := by decide
theorem witness_CycleCostFollowsTheTable :
    (⟨0xB1, .lda, .indirectY, 2, 5, true⟩ : OpcodeRecord) ∈ opcodeTable := by decide
theorem witness_LoadsPutTheOperandInTheRegister :
    (Instr.ldaIndY 0xFF).mnemonic = .lda ∧ (Instr.ldxZpY 0xFF).mnemonic = .ldx ∧ (Instr.ldyImm 0).mnemonic = .ldy := by
  decide
theorem witness_StoresWriteTheRegister :
    (Instr.staIndX 0xFF).mnemonic = .sta ∧ (Instr.stxZpY 0xFF).mnemonic = .stx ∧ (Instr.styAbs 0xFFFF).mnemonic = .sty := by
  decide
theorem witness_AdcAddsWithCarry : (Instr.adcIndY 0xFF).mnemonic = .adc := by decide
theorem witness_SbcSubtractsWithBorrow : (Instr.sbcImm 0xFF).mnemonic = .sbc := by decide
theorem witness_ComparesWriteOnlyFlags :
    (Instr.cmpAbsX 0xFFFF).mnemonic = .cmp ∧ (Instr.cpxImm 0).mnemonic = .cpx ∧ (Instr.cpyZp 0).mnemonic = .cpy := by decide
theorem witness_LogicalsCombineWithA :
    (Instr.andIndX 0).mnemonic = .and ∧ (Instr.oraZp 0).mnemonic = .ora ∧ (Instr.eorAbsY 0).mnemonic = .eor := by decide
theorem witness_BitTakesFlagsFromMemory : (Instr.bitAbs 0xFFFF).mnemonic = .bit := by decide
theorem witness_ShiftsMoveOneBitThroughTheCarry :
    Instr.rorAcc.operand = .accumulator ∧ shiftOf .ror 0x01 true = some (0x80, true)
      ∧ shiftOf Instr.rorAcc.mnemonic start.a (getFlag .c start.p) = some (0, false)
      ∧ shiftOf Instr.aslAcc.mnemonic start.a (getFlag .c start.p) = some (0, false)
      ∧ shiftOf Instr.lsrAcc.mnemonic start.a (getFlag .c start.p) = some (0, false)
      ∧ shiftOf Instr.rolAcc.mnemonic start.a (getFlag .c start.p) = some (0, false)
      ∧ (Instr.aslAbsX 0x0600).operand ≠ .accumulator
      ∧ shiftOf .asl (start.busByte (eaOf (Instr.aslAbsX 0x0600).operand start)) (getFlag .c start.p) = some (0x52, true) := by
  decide
theorem witness_IncDecOfMemoryReadThenWrite :
    (Instr.incAbsX 0xFFFF).mnemonic = .inc ∧ (Instr.decZp 0).mnemonic = .dec := by decide
theorem witness_RtsUndoesJsr : ∃ t, exec (.jsrAbs 0x0700) { start with sp := 0x00 } = .next t := ⟨_, rfl⟩
theorem witness_FlagInstructionsWriteOneFlag :
    (Instr.clv, Flag.v, false) ∈ [(Instr.clc, Flag.c, false), (.sec, .c, true), (.cli, .i, false), (.sei, .i, true),
      (.cld, .d, false), (.sed, .d, true), (.clv, .v, false)] := by decide
theorem witness_FormsThatStoreNothingLeaveMemory :
    storesAtEa (.cmpAbs 0x0200) = false ∧ pushes (.cmpAbs 0x0200) = false
      ∧ ∃ t, exec (.cmpAbs 0x0200) start = .next t := ⟨by decide, by decide, _, rfl⟩
theorem witness_StoringFormsChangeOneByte :
    storesAtEa (.incAbs 0x0600) = true ∧ (∃ t, exec (.incAbs 0x0600) start = .next t)
      ∧ route (eaOf (Instr.incAbs 0x0600).operand start) ≠ .ram 0x5FF
      ∧ route (eaOf (Instr.incAbs 0x0600).operand start) ≠ .delegate .ppu 0x2000 :=
  ⟨by decide, ⟨_, rfl⟩, by decide, by decide⟩
theorem witness_PushingFormsChangeTheirStackBytes :
    pushes (.jsrAbs 0x0700) = true ∧ (∃ t, exec (.jsrAbs 0x0700) start = .next t)
      ∧ 0x1FB ≠ 0x100 + start.sp.toNat ∧ 0x1FB ≠ 0x100 + (start.sp - 1).toNat
      ∧ pushes .pha = true ∧ (∃ t, exec .pha start = .next t) ∧ 0x1FC ≠ 0x100 + start.sp.toNat
      ∧ Instr.pha.mnemonic ≠ .jsr :=
  ⟨by decide, ⟨_, rfl⟩, by decide, by decide, by decide, ⟨_, rfl⟩, by decide, by decide⟩
/-- LDA #$80 changes A and N; LDX changes X; LDY changes Y; TXS changes SP. -/
theorem witness_RegistersHaveOnlyTheirWriters :
    (∃ t, exec (.ldaImm 0x80) start = .next t ∧ t.a ≠ start.a) ∧ (∃ t, exec (.ldxImm 0x01) start = .next t ∧ t.x ≠ start.x)
      ∧ (∃ t, exec (.ldyImm 0x01) start = .next t ∧ t.y ≠ start.y) ∧ (∃ t, exec .txs start = .next t ∧ t.sp ≠ start.sp) :=
  ⟨⟨_, rfl, by decide⟩, ⟨_, rfl, by decide⟩, ⟨_, rfl, by decide⟩, ⟨_, rfl, by decide⟩⟩
theorem witness_FlagsHaveOnlyTheirWriters :
    (Instr.ldaImm 0x80).mnemonic ∉ [Mnemonic.plp, .rti]
      ∧ (∃ t, exec (.ldaImm 0x80) start = .next t ∧ getFlag .n t.p ≠ getFlag .n start.p)
      ∧ (∃ t, exec .sec start = .next t ∧ getFlag .c t.p ≠ getFlag .c start.p)
      ∧ (∃ t, exec (.ldaImm 0x00) start = .next t ∧ getFlag .z t.p ≠ getFlag .z start.p)
      ∧ (∃ t, exec .cli start = .next t ∧ getFlag .i t.p ≠ getFlag .i start.p)
      ∧ (∃ t, exec .sed start = .next t ∧ getFlag .d t.p ≠ getFlag .d start.p)
      ∧ ∃ t, exec .clv { start with p := 0x40 } = .next t ∧ getFlag .v t.p ≠ getFlag .v 0x40 :=
  ⟨by decide, ⟨_, rfl, by decide⟩, ⟨_, rfl, by decide⟩, ⟨_, rfl, by decide⟩, ⟨_, rfl, by decide⟩, ⟨_, rfl, by decide⟩,
    ⟨_, rfl, by decide⟩⟩
theorem witness_ControlStateHasOnlyItsWriters :
    (∃ t, exec (.jmpAbs 0x1234) start = .next t ∧ t.pc ≠ start.pc)
      ∧ ∃ t, exec .brk start = .next t ∧ t.run ≠ start.run := ⟨⟨_, rfl, by decide⟩, ⟨_, rfl, by decide⟩⟩
theorem witness_DecimalBreakAndUnusedChangeNoResult :
    Flag.d ∈ [Flag.d, .b, .u] ∧ (Instr.adcImm 0x09).mnemonic ≠ .php ∧ (∃ t, exec (.adcImm 0x09) start = .next t)
      ∧ Flag.b ∈ [Flag.d, .b, .u] ∧ (Flag.b = .d → Instr.php.mnemonic ≠ .php) ∧ ∃ t, exec .php start = .next t :=
  ⟨by decide, by decide, ⟨_, rfl⟩, by decide, by decide, ⟨_, rfl⟩⟩
theorem witness_StepRunsTheDecodedInstruction :
    fetches start ∧ (fetchOperands (encode (.ldaImm 0x05)).length start).1 = encode (.ldaImm 0x05) :=
  ⟨start_fetches, by decide⟩
theorem witness_StepDecidesInPriorityOrder :
    State.construct.initialised = false
      ∧ (start.initialised = true ∧ { start with fault := some (.unimplementedOpcode 2 0) }.fault
          = some (.unimplementedOpcode 2 0))
      ∧ (start.fault = none ∧ { start with run := .halted }.run = .halted)
      ∧ (start.run = .running ∧ { start with nmiPending := true }.nmiPending = true)
      ∧ (start.nmiPending = false ∧ { start with irqLine := true }.irqLine = true
          ∧ getFlag .i { start with irqLine := true, p := 0x00 }.p = false)
      ∧ fetches start := ⟨rfl, ⟨rfl, rfl⟩, ⟨rfl, rfl⟩, ⟨rfl, rfl⟩, ⟨rfl, rfl, by decide⟩, start_fetches⟩
theorem witness_FaultPersistsForTheSession :
    let s := { start with fault := some (.unimplementedOpcode 0x02 0x0600) }
    s.initialised = true ∧ s.fault = some (.unimplementedOpcode 0x02 0x0600) ∧ ∃ t, hostDo .reset s = .next t :=
  ⟨rfl, rfl, _, rfl⟩
theorem witness_OnlyResetLeavesHalted :
    let s := { start with run := .halted }
    s.initialised = true ∧ s.fault = none ∧ s.run = .halted ∧ HostOp.assertNmi ≠ .reset
      ∧ ∃ t, hostDo .assertNmi s = .next t := ⟨rfl, rfl, rfl, by decide, _, rfl⟩
theorem witness_OnlyUndocumentedBytesStopAStep : start.initialised = true ∧ start.fault = none := ⟨rfl, rfl⟩
theorem witness_EveryStepKeepsMemoriesCanonical : start.wf = true ∧ ∃ t, step start = .next t := ⟨by decide, _, rfl⟩
theorem witness_EveryHostOperationKeepsMemoriesCanonical :
    start.wf = true ∧ ∃ t, hostDo (.declareRom 0xFFFF 0x12) start = .next t := ⟨by decide, _, rfl⟩
theorem witness_NopAndHaltTouchNothingElse : start.initialised = true ∧ start.fault = none := ⟨rfl, rfl⟩
theorem witness_NothingRunsBeforeTheFirstReset :
    State.construct.initialised = false ∧ (∃ t, hostDo .reset State.construct = .next t)
      ∧ (∃ t, hostDo (.load 0x0600 [0xEA]) State.construct = .next t) ∧ route 0x1FFF = .ram 0x7FF :=
  ⟨rfl, ⟨_, rfl⟩, ⟨_, rfl⟩, by decide⟩
theorem witness_LoadedBytesAreReadBack :
    (0x1FFE : Word).toNat + [0x11, (0x22 : Byte)].length ≤ 0x2000 ∧ [0x11, (0x22 : Byte)].length ≤ 2048
      ∧ [0x11, (0x22 : Byte)][1]? = some 0x22 := by decide
theorem witness_TracerHidesSideEffectingValues :
    Mnemonic.lda ≠ .jmp ∧ Mnemonic.lda ≠ .jsr ∧ route 0x1FFF = .ram 0x7FF ∧ route 0x2000 = .delegate .ppu 0x2000
      ∧ start.initialised = true ∧ peekBytes (encode (.ldaImm 0x05)).length start.pc start = encode (.ldaImm 0x05) := by
  decide
theorem witness_HostInputsWriteTheirOwnState : start.initialised = true := rfl

end Sys2Proof.Tests
end

section
/-! Proofs about the state (spec/10_state.md), first part: which flags a change of P leaves alone, in the words of
`Claims.flagsKept`. -/

namespace Sys2Proof.Claims

open Sys2Proof.Machine

variable {w : List Flag} {p q : Byte}

theorem flagsKept.refl : flagsKept w p p := fun _ _ => rfl

/-- Where every flag may be written, nothing is claimed. -/
theorem flagsKept_of_all (h : ∀ f, f ∈ w) : flagsKept w p q := fun f hf => absurd (h f) hf

/-- Writing a flag that may be written keeps the others. -/
theorem flagsKept.putFlag_right (h : flagsKept w p q) {f : Flag} (v : Bool) (hf : f ∈ w := by decide) :
    flagsKept w p (putFlag f v q) := fun g hg => by
  rw [getFlag_putFlag_other v q (by rintro rfl; exact hg hf), h g hg]

theorem flagsKept.setZN_right (h : flagsKept w p q) (v : Byte) (hz : Flag.z ∈ w := by decide)
    (hn : Flag.n ∈ w := by decide) : flagsKept w p (setZN v q) := (h.putFlag_right _ hz).putFlag_right _ hn

/-- Bytes that differ in some flags only still do when both are given the same flag. -/
theorem flagsKept.putFlag (h : flagsKept w p q) (f : Flag) (v : Bool) :
    flagsKept w (Machine.putFlag f v p) (Machine.putFlag f v q) := fun g hg => by
  simp only [getFlag_putFlag, h g hg]

theorem flagsKept.setZN (h : flagsKept w p q) (v : Byte) : flagsKept w (Machine.setZN v p) (Machine.setZN v q) :=
  (h.putFlag .z _).putFlag .n _

theorem flagsKept.shiftFlags (h : flagsKept w p q) (r : Byte × Bool) :
    flagsKept w (Machine.shiftFlags r p) (Machine.shiftFlags r q) := (h.putFlag .c _).setZN _

theorem flagsKept.addFlags (h : flagsKept w p q) (r : AddResult) :
    flagsKept w (Machine.addFlags r p) (Machine.addFlags r q) := ((h.putFlag .c _).putFlag .v _).setZN _

theorem flagsKept.compareFlags (h : flagsKept w p q) (r m : Byte) :
    flagsKept w (Machine.compareFlags r m p) (Machine.compareFlags r m q) := (h.putFlag .c _).setZN _

theorem flagsKept.bitFlags (h : flagsKept w p q) (a m : Byte) :
    flagsKept w (Machine.bitFlags a m p) (Machine.bitFlags a m q) :=
  ((h.putFlag .z _).putFlag .v _).putFlag .n _

/-- Clearing the one flag in which two bytes can differ makes them equal. -/
theorem flagsKept.putFlag_eq {f : Flag} (h : flagsKept [f] p q) (v : Bool) :
    Machine.putFlag f v q = Machine.putFlag f v p := by
  apply status_ext
  intro g
  by_cases hg : g = f
  · subst hg
    simp
  · rw [getFlag_putFlag_other v q hg, getFlag_putFlag_other v p hg, h g (by simpa using hg)]

/-- PHP shows neither the stored B nor the stored U (rules R31, R201). -/
theorem flagsKept.pushedByPhp_eq {f : Flag} (h : flagsKept [f] p q) (hf : f = .b ∨ f = .u) :
    pushedByPhp q = pushedByPhp p := by
  apply status_ext
  intro g
  rw [getFlag_pushedByPhp, getFlag_pushedByPhp]
  split
  · rfl
  · next hg => exact h g fun hm => hg (List.mem_singleton.mp hm ▸ hf)

end Sys2Proof.Claims
end

section
/-! Proofs about the state, second part: the frame of an instruction. `Frame` says which registers and flags stay; each setter
and bus operation extends a frame, and `exec_frame` gives every instruction the frame of its row of `writtenRegisters` and
`writtenFlags`. -/

namespace Sys2Proof.Machine

open Sys2Proof.Claims

/-- The registers and the run state: what some instruction, but not every one, writes beside P. -/
inductive Register where
  | a | x | y | sp | pc | run
  deriving DecidableEq

/-- From `s` to `t` only the registers of `w`, the flags of `fl`, the cycles and the memories have changed. -/
structure Frame (w : List Register) (fl : List Flag) (s t : State) : Prop where
  a : t.a ≠ s.a → .a ∈ w
  x : t.x ≠ s.x → .x ∈ w
  y : t.y ≠ s.y → .y ∈ w
  sp : t.sp ≠ s.sp → .sp ∈ w
  pc : t.pc ≠ s.pc → .pc ∈ w
  run : t.run ≠ s.run → .run ∈ w
  flags : flagsKept fl s.p t.p
  fault : t.fault = s.fault
  nmiPending : t.nmiPending = s.nmiPending
  irqLine : t.irqLine = s.irqLine
  initialised : t.initialised = s.initialised

namespace Frame

variable {w : List Register} {fl : List Flag} {s t : State}

/-- A flag that has changed is one that may be written. -/
theorem flag_written (h : Frame w fl s t) {f : Flag} (hne : getFlag f t.p ≠ getFlag f s.p) : f ∈ fl :=
  by_contra fun hf => hne (h.flags f hf)

theorem refl : Frame w fl s s where
  a h := absurd rfl h
  x h := absurd rfl h
  y h := absurd rfl h
  sp h := absurd rfl h
  pc h := absurd rfl h
  run h := absurd rfl h
  flags := flagsKept.refl
  fault := rfl
  nmiPending := rfl
  irqLine := rfl
  initialised := rfl

/-! ### Setters: each asks that its register may be written -/

theorem setA (h : Frame w fl s t) (v : Byte) (hw : .a ∈ w := by decide) : Frame w fl s (t.setA v) :=
  { h with a := fun _ => hw }

theorem setX (h : Frame w fl s t) (v : Byte) (hw : .x ∈ w := by decide) : Frame w fl s (t.setX v) :=
  { h with x := fun _ => hw }

theorem setY (h : Frame w fl s t) (v : Byte) (hw : .y ∈ w := by decide) : Frame w fl s (t.setY v) :=
  { h with y := fun _ => hw }

theorem setSP (h : Frame w fl s t) (v : Byte) (hw : .sp ∈ w := by decide) : Frame w fl s (t.setSP v) :=
  { h with sp := fun _ => hw }

theorem setPC (h : Frame w fl s t) (v : Word) (hw : .pc ∈ w := by decide) : Frame w fl s (t.setPC v) :=
  { h with pc := fun _ => hw }

theorem setRun (h : Frame w fl s t) (v : RunState) (hw : .run ∈ w := by decide) : Frame w fl s (t.setRun v) :=
  { h with run := fun _ => hw }

theorem setP (h : Frame w fl s t) {p : Byte} (hp : flagsKept fl s.p p) : Frame w fl s (t.setP p) :=
  { h with flags := hp }

theorem putFlag (h : Frame w fl s t) {f : Flag} (v : Bool) (hf : f ∈ fl := by decide) : Frame w fl s (t.putFlag f v) :=
  h.setP (h.flags.putFlag_right v hf)

theorem setZN (h : Frame w fl s t) (v : Byte) (hz : Flag.z ∈ fl := by decide) (hn : Flag.n ∈ fl := by decide) :
    Frame w fl s (t.setZN v) :=
  h.setP (h.flags.setZN_right v hz hn)

theorem addCycles (h : Frame w fl s t) (n : Nat) : Frame w fl s (t.addCycles n) := { h with }

theorem setRam (h : Frame w fl s t) (m : Memory) : Frame w fl s (t.setRam m) := { h with }

theorem setDelegate (h : Frame w fl s t) (d : DelegateId) (v : DelegateState) : Frame w fl s (t.setDelegate d v) := by
  cases d <;> exact { h with }

/-! ### The bus, the stack and the operand -/

theorem afterRead (h : Frame w fl s t) (a : Word) : Frame w fl s (t.afterRead a) :=
  State.afterRead_cases t a (Frame w fl s) h fun _ _ => h.setDelegate _ _

theorem memWrite (h : Frame w fl s t) (a : Word) (v : Byte) : Frame w fl s (memWrite a v t) := by
  unfold Machine.memWrite
  split
  · exact h.setRam _
  · exact h.setDelegate _ _

theorem push (h : Frame w fl s t) (v : Byte) (hw : .sp ∈ w := by decide) : Frame w fl s (push v t) :=
  (h.memWrite _ v).setSP _ hw

theorem pull (h : Frame w fl s t) (hw : .sp ∈ w := by decide) : Frame w fl s (pull t).2 :=
  (h.setSP _ hw).afterRead _

theorem resolve (h : Frame w fl s t) (o : Operand) : Frame w fl s (resolve o t).2 :=
  readPointer_snd_cases o t (Frame w fl s) h fun _ _ => (h.afterRead _).afterRead _

theorem readOperand (h : Frame w fl s t) (o : Operand) (ea : Word) : Frame w fl s (readOperand o ea t).2 :=
  readOperand_snd_cases o t ea (Frame w fl s) h (h.afterRead ea)

theorem writeOperand (h : Frame w fl s t) {o : Operand} (ea : Word) (v : Byte) (hw : o = .accumulator → .a ∈ w) :
    Frame w fl s (writeOperand o ea v t) := by
  by_cases ho : o = .accumulator
  · rw [ho, writeOperand_accumulator]
    exact h.setA v (hw ho)
  · rw [writeOperand_memory o t ea v ho]
    exact h.memWrite ea v

/-! ### The shapes of instructions: the frame of the effect is the frame of the whole -/

variable {code : Byte} {o : Operand}

theorem of_runImplied {f : State → State} (h : runImplied code f s = .next t) (hf : Frame w fl s (f s)) :
    Frame w fl s t := by
  cases h
  exact hf.addCycles _

theorem of_runRead {f : Byte → State → State} (h : runRead code o f s = .next t)
    (hf : ∀ m u, Frame w fl s u → Frame w fl s (f m u)) : Frame w fl s t := by
  cases h
  exact (hf _ _ ((refl.resolve o).readOperand o _)).addCycles _

theorem of_runStore {v : State → Byte} (h : runStore code o v s = .next t) (hw : o = .accumulator → .a ∈ w) :
    Frame w fl s t := by
  cases h
  exact ((refl.resolve o).writeOperand _ _ hw).addCycles _

theorem of_runModify {f : Byte → Byte → Byte × Byte} (h : runModify code o f s = .next t)
    (hw : o = .accumulator → .a ∈ w) (hf : ∀ v p, flagsKept fl s.p p → flagsKept fl s.p (f v p).2) :
    Frame w fl s t := by
  cases h
  have hr := (refl (w := w) (fl := fl) (s := s)).resolve o |>.readOperand o (Machine.resolve o s).1.ea
  exact ((hr.writeOperand _ _ hw).setP (hf _ _ hr.flags)).addCycles _

theorem of_runJump {f : Word → State → State} (h : runJump code o f s = .next t)
    (hf : ∀ a u, Frame w fl s u → Frame w fl s (f a u)) : Frame w fl s t := by
  cases h
  exact (hf _ _ (refl.resolve o)).addCycles _

theorem of_runBranch {d : Byte} {taken : Bool} (h : runBranch code d taken s = .next t)
    (hw : .pc ∈ w := by decide) : Frame w fl s t := by
  rw [runBranch_next] at h
  cases h
  refine addCycles ?_ _
  split
  · exact refl.setPC _ hw
  · exact refl

end Frame

/-! ### The tables -/

/-- The registers a mnemonic writes (rules R21 to R25, R35). A read-modify-write writes A in Accumulator mode. -/
def writtenRegisters (m : Mnemonic) (o : Operand) : List Register :=
  match m with
  | .lda | .txa | .tya | .adc | .sbc | .and | .ora | .eor => [.a]
  | .pla => [.a, .sp]
  | .ldx | .tax | .tsx | .inx | .dex => [.x]
  | .ldy | .tay | .iny | .dey => [.y]
  | .txs | .pha | .php | .plp => [.sp]
  | .bpl | .bmi | .bvc | .bvs | .bcc | .bcs | .bne | .beq | .jmp => [.pc]
  | .jsr | .rts | .rti => [.sp, .pc]
  | .brk => [.run]
  | .sta | .stx | .sty | .asl | .lsr | .rol | .ror | .inc | .dec => if o = .accumulator then [.a] else []
  | .cmp | .cpx | .cpy | .bit | .clc | .sec | .cli | .sei | .cld | .sed | .clv | .nop => []

/-- The flags a mnemonic writes (rules R27 to R33). -/
def writtenFlags : Mnemonic → List Flag
  | .lda | .ldx | .ldy | .tax | .tay | .txa | .tya | .tsx | .and | .ora | .eor | .inc | .dec | .inx | .iny | .dex | .dey
  | .pla => [.z, .n]
  | .adc | .sbc => [.c, .z, .v, .n]
  | .cmp | .cpx | .cpy | .asl | .lsr | .rol | .ror => [.c, .z, .n]
  | .bit => [.z, .v, .n]
  | .clc | .sec => [.c]
  | .cli | .sei => [.i]
  | .cld | .sed => [.d]
  | .clv => [.v]
  | .plp | .rti => [.c, .z, .i, .d, .b, .u, .v, .n]
  | .sta | .stx | .sty | .txs | .bpl | .bmi | .bvc | .bvs | .bcc | .bcs | .bne | .beq | .pha | .php | .jsr | .rts | .jmp
  | .nop | .brk => []

theorem execByMnemonic_frame {m : Mnemonic} {code : Byte} {o : Operand} {s t : State}
    (h : execByMnemonic m code o s = .next t) : Frame (writtenRegisters m o) (writtenFlags m) s t := by
  cases m <;> simp only [execByMnemonic] at h
  -- read instructions
  case lda | and | ora | eor => exact .of_runRead (w := [.a]) h fun _ _ hu => (hu.setA _).setZN _
  case ldx => exact .of_runRead (w := [.x]) h fun _ _ hu => (hu.setX _).setZN _
  case ldy => exact .of_runRead (w := [.y]) h fun _ _ hu => (hu.setY _).setZN _
  case adc | sbc =>
    exact .of_runRead (w := [.a]) h fun _ _ hu =>
      (hu.setA _).setP (((hu.flags.putFlag_right _).putFlag_right _).setZN_right _)
  case cmp | cpx | cpy => exact .of_runRead h fun _ _ hu => hu.setP ((hu.flags.putFlag_right _).setZN_right _)
  case bit =>
    exact .of_runRead h fun _ _ hu => hu.setP (((hu.flags.putFlag_right _).putFlag_right _).putFlag_right _)
  -- stores and read-modify-writes
  case sta | stx | sty => exact .of_runStore h fun ho => by simp [writtenRegisters, ho]
  case asl | lsr | rol | ror =>
    exact .of_runModify h (fun ho => by simp [writtenRegisters, ho]) fun _ _ hp => (hp.putFlag_right _).setZN_right _
  case inc | dec =>
    exact .of_runModify h (fun ho => by simp [writtenRegisters, ho]) fun _ _ hp => hp.setZN_right _
  -- control flow
  case jmp => exact .of_runJump (w := [.pc]) h fun a _ hu => hu.setPC a
  case jsr => exact .of_runJump (w := [.sp, .pc]) h fun a _ hu => ((hu.push _).push _).setPC a
  case bpl | bmi | bvc | bvs | bcc | bcs | bne | beq => exact .of_runBranch (w := [.pc]) h
  case rts => exact .of_runImplied (w := [.sp, .pc]) h ((Frame.refl.pull.pull).setPC _)
  case rti =>
    exact .of_runImplied (w := [.sp, .pc]) h
      ((((Frame.refl.pull.setP (flagsKept_of_all fun f => by cases f <;> decide)).pull).pull).setPC _)
  case nop => exact .of_runImplied h .refl
  case brk => exact .of_runImplied (w := [.run]) h (Frame.refl.setRun _)
  -- registers, stack and flags
  case txa | tya => exact .of_runImplied (w := [.a]) h ((Frame.refl.setA _).setZN _)
  case tax | tsx | inx | dex => exact .of_runImplied (w := [.x]) h ((Frame.refl.setX _).setZN _)
  case tay | iny | dey => exact .of_runImplied (w := [.y]) h ((Frame.refl.setY _).setZN _)
  case txs => exact .of_runImplied (w := [.sp]) h (Frame.refl.setSP _)
  case pha | php => exact .of_runImplied (w := [.sp]) h (Frame.refl.push _)
  case pla => exact .of_runImplied (w := [.a, .sp]) h ((Frame.refl.pull.setA _).setZN _)
  case plp =>
    exact .of_runImplied (w := [.sp]) h (Frame.refl.pull.setP (flagsKept_of_all fun f => by cases f <;> decide))
  case clc | sec | cli | sei | cld | sed | clv => exact .of_runImplied h (Frame.refl.putFlag _)

/-- What an instruction leaves unchanged, for every instruction. -/
theorem exec_frame {i : Instr} {s t : State} (h : exec i s = .next t) :
    Frame (writtenRegisters i.mnemonic i.operand) (writtenFlags i.mnemonic) s t :=
  execByMnemonic_frame (exec_eq i s ▸ h)

/-- Accumulator mode belongs to the shifts and rotates (rule R84). -/
theorem mnemonic_of_accumulator {i : Instr} (h : i.operand = .accumulator) :
    i.mnemonic ∈ [Mnemonic.asl, .lsr, .rol, .ror] := by
  cases i
  case aslAcc | lsrAcc | rolAcc | rorAcc => decide
  all_goals cases h

/-- The only value an instruction gives `run` is halted (rules R35, R220). -/
theorem exec_brk_run {i : Instr} {s t : State} (hi : i.mnemonic = .brk) (h : exec i s = .next t) : t.run = .halted := by
  rw [exec_eq, hi] at h
  cases h
  rfl

end Sys2Proof.Machine
end

section
/-! Proofs about the state, third part: what the stored D, B and U can show. `SameBut` relates two states that differ in one
stored flag only; every effect, every shape of instruction and so every instruction keeps them related. -/

namespace Sys2Proof.Machine

open Sys2Proof.Claims

/-- `t` is `s` but for the stored flag `f`. -/
def SameBut (f : Flag) (s t : State) : Prop := ∃ q, t = s.setP q ∧ flagsKept [f] s.p q

/-- Both answer a next state, and these are the same but for the stored flag `f`. -/
def SameResultBut (f : Flag) (r r' : StepResult) : Prop := ∃ t t', r = .next t ∧ r' = .next t' ∧ SameBut f t t'

variable {f : Flag} {s : State} {q : Byte}

theorem SameBut.addCycles {t : State} (h : SameBut f s t) (n : Nat) : SameBut f (s.addCycles n) (t.addCycles n) := by
  obtain ⟨q, rfl, hq⟩ := h
  exact ⟨q, rfl, hq⟩

/-- Clearing that flag in both leaves one state. -/
theorem SameBut.putFlag_eq {t : State} (h : SameBut f s t) (v : Bool) : t.putFlag f v = s.putFlag f v := by
  obtain ⟨q, rfl, hq⟩ := h
  exact congrArg s.setP (hq.putFlag_eq v)

/-- An effect that neither looks at P nor writes it. -/
theorem SameBut.of_commutes {g : State → State} (hq : flagsKept [f] s.p q) (hg : g (s.setP q) = (g s).setP q)
    (hp : (g s).p = s.p) : SameBut f (g s) (g (s.setP q)) := ⟨q, hg, hp ▸ hq⟩

/-- An effect that overwrites P without looking at it. -/
theorem SameBut.of_eq {t : State} (h : t = s) : SameBut f s t := ⟨s.p, h, flagsKept.refl⟩

/-- A flag other than D, B and U reads the same in both. -/
theorem flag_eq_of_flagsKept (hq : flagsKept [f] s.p q) (hf : f ∈ [Flag.d, .b, .u]) (g : Flag)
    (hg : g ∉ [Flag.d, .b, .u] := by decide) : (s.setP q).flag g = s.flag g :=
  hq g fun hm => hg (List.mem_singleton.mp hm ▸ hf)

/-! ### The shapes of instructions -/

section Shapes
variable {code d : Byte} {o : Operand}

theorem runImplied_sameBut {g : State → State} (h : SameBut f (g s) (g (s.setP q))) :
    SameResultBut f (runImplied code g s) (runImplied code g (s.setP q)) := ⟨_, _, rfl, rfl, h.addCycles _⟩

theorem runRead_sameBut {g : Byte → State → State} (hq : flagsKept [f] s.p q)
    (hg : ∀ v u, flagsKept [f] u.p q → SameBut f (g v u) (g v (u.setP q))) :
    SameResultBut f (runRead code o g s) (runRead code o g (s.setP q)) := by
  rw [runRead_next, runRead_next, resolve_setP, readOperand_setP]
  exact ⟨_, _, rfl, rfl, (hg _ _ (by simpa using hq)).addCycles _⟩

theorem runStore_sameBut {v : State → Byte} (hq : flagsKept [f] s.p q) (hv : ∀ u, v (u.setP q) = v u) :
    SameResultBut f (runStore code o v s) (runStore code o v (s.setP q)) := by
  rw [runStore_next, runStore_next, resolve_setP, hv, writeOperand_setP]
  exact ⟨_, _, rfl, rfl, q, rfl, by simpa using hq⟩

theorem runModify_sameBut {g : Byte → Byte → Byte × Byte} (hv : ∀ v, (g v q).1 = (g v s.p).1)
    (hp : ∀ v, flagsKept [f] (g v s.p).2 (g v q).2) :
    SameResultBut f (runModify code o g s) (runModify code o g (s.setP q)) := by
  simp only [runModify_next, resolve_setP, readOperand_setP, State.setP_p, hv, writeOperand_setP, resolve_snd,
    readOperand_p, readPointer_p]
  exact ⟨_, _, rfl, rfl, _, rfl, hp _⟩

theorem runJump_sameBut {g : Word → State → State} (hq : flagsKept [f] s.p q)
    (hg : ∀ a u, flagsKept [f] u.p q → SameBut f (g a u) (g a (u.setP q))) :
    SameResultBut f (runJump code o g s) (runJump code o g (s.setP q)) := by
  rw [runJump_next, runJump_next, resolve_setP]
  exact ⟨_, _, rfl, rfl, (hg _ _ (by simpa using hq)).addCycles _⟩

theorem runBranch_sameBut {taken taken' : Bool} (hq : flagsKept [f] s.p q) (ht : taken' = taken) :
    SameResultBut f (runBranch code d taken s) (runBranch code d taken' (s.setP q)) := by
  subst ht
  rw [runBranch_next, runBranch_next]
  refine ⟨_, _, rfl, rfl, SameBut.addCycles ?_ _⟩
  split <;> exact ⟨q, rfl, hq⟩

end Shapes

/-! ### The effects that look at P, the stack or both -/

theorem adc_sameBut (m : Byte) (hq : flagsKept [f] s.p q) (hc : (s.setP q).flag .c = s.flag .c) :
    SameBut f (adc m s) (adc m (s.setP q)) := by
  unfold adc
  rw [hc]
  exact ⟨_, rfl, hq.addFlags _⟩

theorem sbc_sameBut (m : Byte) (hq : flagsKept [f] s.p q) (hc : (s.setP q).flag .c = s.flag .c) :
    SameBut f (sbc m s) (sbc m (s.setP q)) := by
  unfold sbc
  rw [hc]
  exact ⟨_, rfl, hq.addFlags _⟩

theorem php_sameBut (hq : flagsKept [f] s.p q) (hf : f = .b ∨ f = .u) : SameBut f (php s) (php (s.setP q)) := by
  unfold php
  rw [State.setP_p, hq.pushedByPhp_eq hf]
  exact .of_commutes hq (push_setP s _ q) (push_p s _)

theorem jsr_sameBut (a : Word) (hq : flagsKept [f] s.p q) : SameBut f (jsr a s) (jsr a (s.setP q)) := by
  refine .of_commutes hq ?_ (by simp [jsr, pushWord])
  simp only [jsr, pushWord, State.setP_pc, push_setP]
  rfl

theorem rts_sameBut (hq : flagsKept [f] s.p q) : SameBut f (rts s) (rts (s.setP q)) := by
  refine .of_commutes hq ?_ (by simp [rts, pullWord, pull_eq])
  simp only [rts, pullWord, pull_setP]
  rfl

theorem pla_sameBut (hq : flagsKept [f] s.p q) : SameBut f (pla s) (pla (s.setP q)) := by
  simp only [pla, pull_eq]
  exact ⟨_, rfl, hq.setZN _⟩

theorem plp_setP : plp (s.setP q) = plp s := by
  simp only [plp, pull_setP]
  rfl

theorem returnFromInterrupt_setP : returnFromInterrupt (s.setP q) = returnFromInterrupt s := by
  simp only [returnFromInterrupt, pull_setP]
  rfl

theorem execByMnemonic_sameBut {m : Mnemonic} {code : Byte} {o : Operand} (hf : f ∈ [Flag.d, .b, .u])
    (hphp : f = .d → m ≠ .php) (hq : flagsKept [f] s.p q) :
    SameResultBut f (execByMnemonic m code o s) (execByMnemonic m code o (s.setP q)) := by
  cases m <;> simp only [execByMnemonic]
  -- read instructions
  case lda | ldx | ldy | and | ora | eor => exact runRead_sameBut hq fun _ _ hu => ⟨_, rfl, hu.setZN _⟩
  case adc => exact runRead_sameBut hq fun m _ hu => adc_sameBut m hu (flag_eq_of_flagsKept hu hf .c)
  case sbc => exact runRead_sameBut hq fun m _ hu => sbc_sameBut m hu (flag_eq_of_flagsKept hu hf .c)
  case cmp | cpx | cpy => exact runRead_sameBut hq fun _ _ hu => ⟨_, rfl, hu.compareFlags _ _⟩
  case bit => exact runRead_sameBut hq fun _ _ hu => ⟨_, rfl, hu.bitFlags _ _⟩
  -- stores and read-modify-writes; ROL and ROR take the stored C in
  case sta | stx | sty => exact runStore_sameBut hq fun _ => rfl
  case asl | lsr => exact runModify_sameBut (fun _ => rfl) fun _ => hq.shiftFlags _
  case rol | ror =>
    have hc : getFlag .c q = getFlag .c s.p := flag_eq_of_flagsKept hq hf .c
    refine runModify_sameBut (fun v => ?_) fun v => ?_ <;> simp only [rol, ror, hc]
    exact hq.shiftFlags _
  case inc | dec => exact runModify_sameBut (fun _ => rfl) fun _ => hq.setZN _
  -- control flow; the branches look at N, V, C and Z only
  case jmp => exact runJump_sameBut hq fun _ _ hu => ⟨q, rfl, hu⟩
  case jsr => exact runJump_sameBut hq fun a _ hu => jsr_sameBut a hu
  case bpl => exact runBranch_sameBut hq (congrArg not (flag_eq_of_flagsKept hq hf .n))
  case bmi => exact runBranch_sameBut hq (flag_eq_of_flagsKept hq hf .n)
  case bvc => exact runBranch_sameBut hq (congrArg not (flag_eq_of_flagsKept hq hf .v))
  case bvs => exact runBranch_sameBut hq (flag_eq_of_flagsKept hq hf .v)
  case bcc => exact runBranch_sameBut hq (congrArg not (flag_eq_of_flagsKept hq hf .c))
  case bcs => exact runBranch_sameBut hq (flag_eq_of_flagsKept hq hf .c)
  case bne => exact runBranch_sameBut hq (congrArg not (flag_eq_of_flagsKept hq hf .z))
  case beq => exact runBranch_sameBut hq (flag_eq_of_flagsKept hq hf .z)
  case rts => exact runImplied_sameBut (rts_sameBut hq)
  case rti => exact runImplied_sameBut (.of_eq returnFromInterrupt_setP)
  case txs | nop | brk => exact runImplied_sameBut ⟨q, rfl, hq⟩
  -- registers, stack and flags
  case txa | tya | tax | tay | tsx | inx | dex | iny | dey => exact runImplied_sameBut ⟨_, rfl, hq.setZN _⟩
  case pha => exact runImplied_sameBut (.of_commutes hq (push_setP s _ q) (push_p s _))
  case php =>
    refine runImplied_sameBut (php_sameBut hq ?_)
    simpa using (List.mem_cons.mp hf).resolve_left fun hd => hphp hd rfl
  case pla => exact runImplied_sameBut (pla_sameBut hq)
  case plp => exact runImplied_sameBut (.of_eq plp_setP)
  case clc | sec | cli | sei | cld | sed | clv => exact runImplied_sameBut ⟨_, rfl, hq.putFlag _ _⟩

end Sys2Proof.Machine
end

section
/-! Proofs about the state, fourth part: halted sessions and sessions before the first reset. -/

namespace Sys2Proof.Machine

theorem sessionStep_halted {s : State} (hi : s.initialised = true) (hf : s.fault = none) (hr : s.run = .halted) :
    sessionStep s = (s, .halted) := by
  simp only [sessionStep, hi, hf, hr, if_true]

theorem step_halted {s : State} (hi : s.initialised = true) (hf : s.fault = none) (hr : s.run = .halted) :
    step s = .next s := by
  rw [step, sessionStep_halted hi hf hr]
  rfl

theorem sessionStep_uninitialised {s : State} (hi : s.initialised = false) :
    sessionStep s = (s, .refused .notInitialised) := by
  simp [sessionStep, hi]

theorem step_uninitialised {s : State} (hi : s.initialised = false) : step s = .refused .notInitialised := by
  rw [step, sessionStep_uninitialised hi]
  rfl

@[simp] theorem hostReset_run (s : State) : (hostReset s).run = .running := by simp [hostReset, memRead16]

@[simp] theorem hostReset_initialised (s : State) : (hostReset s).initialised = true := by simp [hostReset, memRead16]

/-- A preset writes one register, and only after the first reset. -/
theorem hostPreset_next {r : PresetRegister} {v : Byte} {s t : State} (h : hostPreset r v s = .next t) :
    t.run = s.run ∧ t.initialised = s.initialised := by
  unfold hostPreset at h
  split at h
  · cases r <;> cases h <;> exact ⟨rfl, rfl⟩
  · cases h

theorem hostPresetPC_next {v : Word} {s t : State} (h : hostPresetPC v s = .next t) :
    t.run = s.run ∧ t.initialised = s.initialised := by
  unfold hostPresetPC at h
  split at h
  · cases h
    exact ⟨rfl, rfl⟩
  · cases h

/-- Declaring contents leaves all but a delegate. -/
theorem hostDeclareRom_control (a : Word) (v : Byte) (s : State) :
    (hostDeclareRom a v s).run = s.run ∧ (hostDeclareRom a v s).initialised = s.initialised := by
  unfold hostDeclareRom
  split <;> simp

theorem hostDeclareRam_control (a : Word) (v : Byte) (s : State) :
    (hostDeclareRam a v s).run = s.run ∧ (hostDeclareRam a v s).initialised = s.initialised := by
  unfold hostDeclareRam
  split <;> simp

/-- No host operation but reset and `cancel` writes `run`, and `cancel` halts; none but reset writes the session mark. -/
theorem hostDo_control {op : HostOp} {s t : State} (hop : op ≠ .reset) (h : hostDo op s = .next t) :
    (t.run = s.run ∨ t.run = .halted) ∧ t.initialised = s.initialised := by
  cases op
  case reset => exact absurd rfl hop
  case preset => exact (hostPreset_next h).imp_left .inl
  case presetPC => exact (hostPresetPC_next h).imp_left .inl
  all_goals cases h
  case cancel => exact ⟨.inr rfl, rfl⟩
  case assertNmi | setIrq => exact ⟨.inl rfl, rfl⟩
  case load base bytes => exact ⟨.inl (hostLoad_run s base bytes), hostLoad_initialised s base bytes⟩
  case deviceActs d tag => exact ⟨.inl (State.setDelegate_run s d _), State.setDelegate_initialised s d _⟩
  case declareRom a v => exact (hostDeclareRom_control a v s).imp_left .inl
  case declareRam a v => exact (hostDeclareRam_control a v s).imp_left .inl

end Sys2Proof.Machine
end

section
/-! The statements of spec/10_state.md, settled. -/

namespace Sys2Proof.Proofs

open Sys2Proof.Machine Sys2Proof.Claims

/-- Settles O43: states that differ in the stored flag only are the same but for it after any instruction. -/
theorem decimalBreakAndUnusedChangeNoResult : Obligations.DecimalBreakAndUnusedChangeNoResult := by
  intro i s t f b hf hphp h
  have hq : flagsKept [f] s.p (putFlag f b s.p) := flagsKept.refl.putFlag_right b (List.mem_singleton_self f)
  obtain ⟨u, t', hu, ht', hsame⟩ := execByMnemonic_sameBut (code := i.opcode) (o := i.operand) hf hphp hq
  rw [← exec_eq, h] at hu
  cases hu
  exact ⟨t', (exec_eq i _).trans ht', hsame.putFlag_eq false⟩

/-- Settles O40, from the frame of each instruction: the lists are read off the table of the registers it writes. -/
theorem registersHaveOnlyTheirWriters : Obligations.RegistersHaveOnlyTheirWriters := by
  intro i s t h
  have hframe := exec_frame h
  refine ⟨fun hne => ?_, ?_ ∘ hframe.x, ?_ ∘ hframe.y, ?_ ∘ hframe.sp⟩
  · have hw := hframe.a hne
    by_cases ho : i.operand = .accumulator
    · exact .inr ⟨mnemonic_of_accumulator ho, ho⟩
    · refine .inl (?_ : i.mnemonic ∈ _)
      revert hw
      cases i.mnemonic <;> simp [writtenRegisters, ho]
  all_goals cases i.mnemonic <;> simp [writtenRegisters]

/-- Settles O41, from the frame of each instruction: the lists are read off the table of the flags it writes. -/
theorem flagsHaveOnlyTheirWriters : Obligations.FlagsHaveOnlyTheirWriters := by
  intro i s t h hm
  have written {f : Flag} (hne : getFlag f t.p ≠ getFlag f s.p) : f ∈ writtenFlags i.mnemonic :=
    (exec_frame h).flag_written hne
  refine ⟨?_ ∘ written, ?_ ∘ written, ?_ ∘ written, ?_ ∘ written, ?_ ∘ written, ?_ ∘ written, ?_ ∘ written,
    ?_ ∘ written⟩
  all_goals
    revert hm
    clear written h
    cases i.mnemonic <;> decide

/-- Settles O42, from the frame of each instruction. -/
theorem controlStateHasOnlyItsWriters : Obligations.ControlStateHasOnlyItsWriters := by
  intro i s t h
  have hframe := exec_frame h
  refine ⟨?_ ∘ hframe.pc, fun hne => ?_, hframe.fault, hframe.nmiPending, hframe.irqLine, hframe.initialised⟩
  · cases i.mnemonic <;> simp [writtenRegisters]
  · have hbrk : i.mnemonic = .brk := by
      have hw := hframe.run hne
      revert hw
      cases i.mnemonic <;> simp [writtenRegisters]
    exact ⟨hbrk, exec_brk_run hbrk h⟩

/-- Settles O47: the first check that applies to a halted session answers it, and `hostDo_control` says what writes `run`. -/
theorem onlyResetLeavesHalted : Obligations.OnlyResetLeavesHalted := by
  intro s hi hf hr
  have halted (t : State) (hi : t.initialised = true) (hf : t.fault = none) (hr : t.run = .halted) :
      sessionStep t = (t, .halted) ∧ step t = .next t :=
    ⟨sessionStep_halted hi hf hr, step_halted hi hf hr⟩
  refine ⟨halted s hi hf hr, ⟨rfl, halted _ hi hf hr⟩, fun level => ⟨rfl, halted _ hi hf hr⟩,
    ⟨rfl, hostReset_run s⟩, fun op t hop h => ?_⟩
  obtain ⟨hkept | hhalted, -⟩ := hostDo_control hop h
  · exact hkept.trans hr
  · exact hhalted

/-- Settles O57: every refused operation checks the session mark first, and only reset writes it. -/
theorem nothingRunsBeforeTheFirstReset : Obligations.NothingRunsBeforeTheFirstReset := by
  intro s hi
  refine ⟨sessionStep_uninitialised hi, step_uninitialised hi, fun r v => by simp [hostPreset, hi],
    fun v => by simp [hostPresetPC, hi], by simp [hostReadState, hi], by simp [trace, hi], fun base bytes => ?_,
    fun a k hk => ?_, fun op t h => ?_⟩
  · exact ⟨_, rfl, rfl, (hostLoad_initialised s base bytes).trans hi⟩
  · simp only [hostPeek, State.peek, hk]
  · by_cases hop : op = .reset
    · subst hop
      cases h
      simp
    · rw [(hostDo_control hop h).2, hi]
      simpa using hop

/-- Settles O52: nothing is listed in any memory at reset. -/
theorem resetMeetsTheMemoryInvariant : Obligations.ResetMeetsTheMemoryInvariant := by
  unfold Obligations.ResetMeetsTheMemoryInvariant
  rw [State.wf_iff]
  exact ⟨rfl, fun d => by cases d <;> rfl⟩

/-- Settles O56: the fields are those of the definition, and `hostReset_construct` says where it comes from. -/
theorem resetStateIsTheFirstReset : Obligations.ResetStateIsTheFirstReset :=
  ⟨hostReset_construct, rfl, rfl, rfl, rfl, rfl, rfl, rfl, rfl, rfl, rfl, rfl, fun _ => rfl⟩

end Sys2Proof.Proofs
end

section
/-! Proofs about memory (spec/20_memory.md), first part: what an instruction does to the memories. `BusReach` says that they
change by bus accesses alone, and by writes at listed addresses only; `exec_busReach` gives every instruction its list. -/

namespace Sys2Proof.Machine

open Sys2Proof.Claims

/-- All of the state that a bus access can change. -/
def State.memories (s : State) : Memory × DelegateState × DelegateState × DelegateState := (s.ram, s.ppu, s.io, s.cart)

theorem State.memories_eq {s t : State} (h : t.memories = s.memories) :
    t.ram = s.ram ∧ ∀ d, t.delegate d = s.delegate d := by
  obtain ⟨hram, hppu, hio, hcart⟩ := by simpa only [State.memories, Prod.mk.injEq] using h
  exact ⟨hram, fun d => by cases d <;> assumption⟩

/-- The memories of `t` are those of `s` after some bus accesses, the writes among them at addresses of `ws`. -/
inductive BusReach (ws : List Word) (s : State) : State → Prop
  | refl : BusReach ws s s
  | registers {t u : State} (h : BusReach ws s t) (hm : u.memories = t.memories) : BusReach ws s u
  | read {t : State} (h : BusReach ws s t) (a : Word) : BusReach ws s (t.afterRead a)
  | write {t : State} (h : BusReach ws s t) {a : Word} (v : Byte) (ha : a ∈ ws) : BusReach ws s (memWrite a v t)

namespace BusReach

variable {ws : List Word} {s t : State}

/-! ### What bus accesses keep -/

/-- A RAM cell to which no listed address is routed keeps its byte. -/
theorem ramByte_eq (h : BusReach ws s t) {k : Nat} (hk : ∀ a ∈ ws, route a ≠ .ram k) : t.ramByte k = s.ramByte k := by
  induction h with
  | refl => rfl
  | registers _ hm ih => simpa only [State.ramByte, (State.memories_eq hm).1] using ih
  | read _ a ih => rw [State.afterRead_ramByte, ih]
  | write _ v ha ih => rw [memWrite_ramByte_other _ _ v (hk _ ha), ih]

/-- What the host declared at a target to which no listed address is routed stays. -/
theorem declared_eq (h : BusReach ws s t) {d : DelegateId} {u : Word} (hu : ∀ a ∈ ws, route a ≠ .delegate d u) :
    (t.delegate d).declared? u = (s.delegate d).declared? u := by
  induction h with
  | refl => rfl
  | registers _ hm ih => rw [(State.memories_eq hm).2, ih]
  | read _ a ih => rw [State.afterRead_declared, ih]
  | write _ v ha ih => rw [memWrite_declared_other _ _ v (hu _ ha), ih]

/-- The memories stay in canonical form. -/
theorem wf (h : BusReach ws s t) (hs : s.wf = true) : t.wf = true := by
  induction h with
  | refl => exact hs
  | registers _ hm ih =>
    obtain ⟨hram, hd⟩ := State.memories_eq hm
    simpa only [State.wf_iff, hram, hd] using ih
  | read _ a ih => exact State.wf_afterRead a ih
  | write _ v _ ih => exact State.wf_memWrite _ v ih

/-! ### The stack and the operand -/

theorem setSP (h : BusReach ws s t) (v : Byte) : BusReach ws s (t.setSP v) := h.registers rfl

theorem setP (h : BusReach ws s t) (v : Byte) : BusReach ws s (t.setP v) := h.registers rfl

theorem push (h : BusReach ws s t) (v : Byte) (ha : stackAddress t.sp ∈ ws) : BusReach ws s (push v t) :=
  (h.write v ha).setSP _

theorem pull (h : BusReach ws s t) : BusReach ws s (pull t).2 := (h.setSP _).read _

theorem resolve (h : BusReach ws s t) (o : Operand) : BusReach ws s (resolve o t).2 :=
  readPointer_snd_cases o t (BusReach ws s) h fun a b => (h.read a).read b

theorem readOperand (h : BusReach ws s t) (o : Operand) (ea : Word) : BusReach ws s (readOperand o ea t).2 :=
  readOperand_snd_cases o t ea (BusReach ws s) h (h.read ea)

theorem writeOperand (h : BusReach ws s t) {o : Operand} {ea : Word} (v : Byte) (hw : o ≠ .accumulator → ea ∈ ws) :
    BusReach ws s (writeOperand o ea v t) := by
  by_cases ho : o = .accumulator
  · subst ho
    exact h.registers rfl
  · rw [writeOperand_memory o t ea v ho]
    exact h.write v (hw ho)

/-! ### The shapes of instructions -/

variable {code : Byte} {o : Operand}

theorem of_runImplied {f : State → State} (h : runImplied code f s = .next t) (hf : BusReach ws s (f s)) :
    BusReach ws s t := by
  cases h
  exact hf.registers rfl

theorem of_runRead {f : Byte → State → State} (h : runRead code o f s = .next t)
    (hf : ∀ m u, (f m u).memories = u.memories) : BusReach ws s t := by
  cases h
  exact ((refl.resolve o).readOperand o _).registers (hf _ _)

theorem of_runStore {v : State → Byte} (h : runStore code o v s = .next t) (hw : o ≠ .accumulator → eaOf o s ∈ ws) :
    BusReach ws s t := by
  cases h
  exact ((refl.resolve o).writeOperand _ hw).registers rfl

theorem of_runModify {f : Byte → Byte → Byte × Byte} (h : runModify code o f s = .next t)
    (hw : o ≠ .accumulator → eaOf o s ∈ ws) : BusReach ws s t := by
  cases h
  exact (((refl.resolve o).readOperand o _).writeOperand _ hw).registers rfl

theorem of_runJump {f : Word → State → State} (h : runJump code o f s = .next t)
    (hf : ∀ a u, BusReach ws s u → u.sp = s.sp → BusReach ws s (f a u)) : BusReach ws s t := by
  cases h
  exact (hf _ _ (refl.resolve o) (readPointer_sp o s)).registers rfl

theorem of_runBranch {d : Byte} {taken : Bool} (h : runBranch code d taken s = .next t) : BusReach ws s t := by
  rw [runBranch_next] at h
  cases h
  split <;> exact refl.registers rfl

end BusReach

/-! ### The table -/

/-- Where a mnemonic writes: at its effective address (rule R120), or on the stack (rules R121, R200, R201, R204). -/
def writtenAddresses (m : Mnemonic) (o : Operand) (s : State) : List Word :=
  match m with
  | .sta | .stx | .sty | .asl | .lsr | .rol | .ror | .inc | .dec => if o = .accumulator then [] else [eaOf o s]
  | .pha | .php => [stackAddress s.sp]
  | .jsr => [stackAddress s.sp, stackAddress (s.sp - 1)]
  | _ => []

theorem jsr_busReach {s u : State} {o : Operand} (ea : Word) (h : BusReach (writtenAddresses .jsr o s) s u)
    (hsp : u.sp = s.sp) : BusReach (writtenAddresses .jsr o s) s (jsr ea u) := by
  have hhigh := h.push (hiByte (add16 u.pc 0xFFFF)) (by simp [writtenAddresses, hsp])
  have hlow := hhigh.push (loByte (add16 u.pc 0xFFFF)) (by simp [writtenAddresses, hsp])
  exact hlow.registers rfl

theorem execByMnemonic_busReach {m : Mnemonic} {code : Byte} {o : Operand} {s t : State}
    (h : execByMnemonic m code o s = .next t) : BusReach (writtenAddresses m o s) s t := by
  cases m <;> simp only [execByMnemonic] at h
  -- memory operands
  case lda | ldx | ldy | adc | sbc | cmp | cpx | cpy | bit | and | ora | eor => exact .of_runRead h fun _ _ => rfl
  case sta | stx | sty => exact .of_runStore h fun ho => by simp [writtenAddresses, ho]
  case asl | lsr | rol | ror | inc | dec => exact .of_runModify h fun ho => by simp [writtenAddresses, ho]
  -- control flow
  case jmp => exact .of_runJump h fun _ _ hu _ => hu.registers rfl
  case jsr => exact .of_runJump h fun ea _ hu hsp => jsr_busReach ea hu hsp
  case bpl | bmi | bvc | bvs | bcc | bcs | bne | beq => exact .of_runBranch h
  case rts => exact .of_runImplied h (BusReach.refl.pull.pull.registers rfl)
  case rti => exact .of_runImplied h ((BusReach.refl.pull.setP _).pull.pull.registers rfl)
  -- the stack
  case pha | php => exact .of_runImplied h (BusReach.refl.push _ (List.mem_singleton_self _))
  case pla | plp => exact .of_runImplied h (BusReach.refl.pull.registers rfl)
  -- registers only
  all_goals exact .of_runImplied h (BusReach.refl.registers rfl)

/-- What every instruction does to the memories. -/
theorem exec_busReach {i : Instr} {s t : State} (h : exec i s = .next t) :
    BusReach (writtenAddresses i.mnemonic i.operand s) s t :=
  execByMnemonic_busReach (exec_eq i s ▸ h)

/-- A form that neither stores nor pushes writes nowhere. -/
theorem writtenAddresses_eq_nil {i : Instr} (hstore : storesAtEa i = false) (hpush : pushes i = false) (s : State) :
    writtenAddresses i.mnemonic i.operand s = [] := by
  revert hstore hpush
  simp only [storesAtEa, pushes]
  cases i.mnemonic <;> simp [writtenAddresses]

end Sys2Proof.Machine
end

section
/-! Proofs about memory, second part: a step and every host operation keep the canonical form. -/

namespace Sys2Proof.Machine

variable {s : State}

theorem State.wf_memRead16 (a : Word) (h : s.wf = true) : (memRead16 a s).2.wf = true :=
  State.wf_afterRead _ (State.wf_afterRead a h)

theorem State.wf_hostReset (h : s.wf = true) : (hostReset s).wf = true := by
  unfold hostReset
  exact State.wf_memRead16 Config.vecReset h

theorem State.wf_interruptEntry (kind : InterruptKind) (h : s.wf = true) : (interruptEntry kind s).wf = true := by
  have hpushed : (push (pushedByInterrupt s.p) (pushWord s.pc s)).wf = true :=
    State.wf_push _ (State.wf_push _ (State.wf_push _ h))
  unfold interruptEntry
  rw [State.wf_addCycles, State.wf_setPC]
  refine State.wf_memRead16 _ ?_
  cases kind <;> exact hpushed

theorem State.wf_runInstruction (h : s.wf = true) : (runInstruction s).1.wf = true := by
  cases hr : opcodeRecord (s.busByte s.pc) with
  | none =>
    simpa [runInstruction_of_no_row s hr, raiseUnimplemented, fetch_eq] using State.wf_afterRead s.pc h
  | some r =>
    obtain ⟨i, t, hrun, hexec⟩ := runInstruction_of_row s hr
    rw [hrun]
    exact (exec_busReach hexec).wf (State.wf_fetchOperands r.length h)

theorem State.wf_sessionStep (h : s.wf = true) : (sessionStep s).1.wf = true := by
  unfold sessionStep
  split
  · split
    · exact h
    · split
      · exact h
      · split
        · exact State.wf_interruptEntry _ h
        · exact State.wf_runInstruction h
  · exact h

/-- A step that answers a next state answers the one its session step leaves. -/
theorem eq_sessionStep_of_step {t : State} (h : step s = .next t) : t = (sessionStep s).1 := by
  unfold step resultOf at h
  split at h <;> cases h <;> simp only [*]

/-- A declared byte lands at a target address of the delegate. -/
theorem State.wf_hostDeclareRom (a : Word) (v : Byte) (h : s.wf = true) : (hostDeclareRom a v s).wf = true := by
  unfold hostDeclareRom
  split
  · exact h
  next d u hu =>
    obtain ⟨hlo, hhi⟩ := route_target hu
    obtain ⟨hrom, hram⟩ := Bool.and_eq_true_iff.mp (((State.wf_iff s).mp h).2 d)
    exact State.wf_setDelegate h (Bool.and_eq_true_iff.mpr ⟨Memory.wf_set _ v hrom hlo hhi, hram⟩)

theorem State.wf_hostDeclareRam (a : Word) (v : Byte) (h : s.wf = true) : (hostDeclareRam a v s).wf = true := by
  unfold hostDeclareRam
  split
  · exact h
  next d u hu =>
    obtain ⟨hlo, hhi⟩ := route_target hu
    obtain ⟨hrom, hram⟩ := Bool.and_eq_true_iff.mp (((State.wf_iff s).mp h).2 d)
    exact State.wf_setDelegate h (Bool.and_eq_true_iff.mpr ⟨hrom, Memory.wf_set _ v hram hlo hhi⟩)

theorem State.wf_hostPreset {r : PresetRegister} {v : Byte} {t : State} (h : s.wf = true)
    (ht : hostPreset r v s = .next t) : t.wf = true := by
  unfold hostPreset at ht
  split at ht
  · cases r <;> cases ht <;> exact h
  · cases ht

theorem State.wf_hostPresetPC {v : Word} {t : State} (h : s.wf = true) (ht : hostPresetPC v s = .next t) :
    t.wf = true := by
  unfold hostPresetPC at ht
  split at ht
  · cases ht
    exact h
  · cases ht

end Sys2Proof.Machine
end

section
/-! The statements of spec/20_memory.md, settled: the invariants. -/

namespace Sys2Proof.Proofs

open Sys2Proof.Machine Sys2Proof.Claims

/-- Settles O51: an instruction changes the memories by bus accesses alone (`exec_busReach`), and these keep the form; so do
the operand fetch and the interrupt entry. -/
theorem everyStepKeepsMemoriesCanonical : Obligations.EveryStepKeepsMemoriesCanonical := by
  intro s t h hstep
  rw [eq_sessionStep_of_step hstep]
  exact State.wf_sessionStep h

/-- Settles O37: no address stands in the list of those such a form writes at. -/
theorem formsThatStoreNothingLeaveMemory : Obligations.FormsThatStoreNothingLeaveMemory := by
  intro i s t hstore hpush h
  have hreach : BusReach [] s t := writtenAddresses_eq_nil hstore hpush s ▸ exec_busReach h
  exact ⟨fun k => hreach.ramByte_eq (by simp), fun d u => hreach.declared_eq (by simp)⟩

/-- Settles O53, by the operation. -/
theorem everyHostOperationKeepsMemoriesCanonical : Obligations.EveryHostOperationKeepsMemoriesCanonical := by
  intro op s t h ht
  cases op
  case preset => exact State.wf_hostPreset h ht
  case presetPC => exact State.wf_hostPresetPC h ht
  all_goals cases ht
  case reset => exact State.wf_hostReset h
  case load base bytes => exact State.wf_hostLoad base bytes h
  case deviceActs d tag => exact State.wf_setDelegate h (((State.wf_iff s).mp h).2 d)
  case declareRom a v => exact State.wf_hostDeclareRom a v h
  case declareRam a v => exact State.wf_hostDeclareRam a v h
  case cancel | assertNmi | setIrq => exact h

end Sys2Proof.Proofs
end

section
/-! Proofs about memory, third part: which cell an address in RAM reaches, reads of RAM after writes, and reads after a
load. -/

namespace Sys2Proof.Machine

variable {s : State} {a b : Word}

/-- Addresses with equal bits under the mask of rule R52 are equal modulo 2048. -/
theorem ramMask_eq_iff (a b : Word) : a &&& 0x07FF = b &&& 0x07FF ↔ a.toNat % 2048 = b.toNat % 2048 := by
  have hmask (c : Word) : (c &&& 0x07FF).toNat = c.toNat % 2048 := by
    rw [BitVec.toNat_and]
    exact Nat.and_two_pow_sub_one_eq_mod c.toNat 11
  rw [← hmask, ← hmask, BitVec.toNat_inj]

/-- A RAM read has no side effect. -/
theorem memRead_ram {k : Nat} (h : route a = .ram k) : memRead a s = (s.ramByte k, s) := by
  unfold memRead
  rw [State.busByte_ram_address s a h, State.afterRead_ram_address s a h]

theorem busByte_memWrite_ram {j k : Nat} (v : Byte) (ha : route a = .ram j) (hb : route b = .ram k) :
    (memWrite a v s).busByte b = if k = j then v else s.busByte b := by
  rw [State.busByte_ram_address _ b hb, State.busByte_ram_address s b hb, memWrite_ram_address s a v ha,
    State.ramByte_setRam_set]

theorem memRead16_eq (s : State) (a : Word) :
    memRead16 a s
      = (wordOf (s.busByte a) ((s.afterRead a).busByte (a + 1)), (s.afterRead a).afterRead (a + 1)) := rfl

theorem memWrite16_eq (s : State) (a v : Word) :
    memWrite16 a v s = memWrite (a + 1) (hiByte v) (memWrite a (loByte v) s) := rfl

/-- A word written in RAM is read back: neighbouring addresses have different cells. -/
theorem memRead16_memWrite16 (v : Word) (ha : a.toNat < 0x1FFF) : (memRead16 a (memWrite16 a v s)).1 = v := by
  have hnext : (a + 1).toNat = a.toNat + 1 := by bv_omega
  have hlow := route_ram (a := a) (by omega)
  have hhigh := route_ram (a := a + 1) (by omega)
  rw [memRead16_eq, memWrite16_eq, State.afterRead_ram_address _ a hlow, busByte_memWrite_ram _ hhigh hhigh,
    if_pos rfl, busByte_memWrite_ram _ hhigh hlow, if_neg (by omega), busByte_memWrite_ram _ hlow hlow, if_pos rfl,
    wordOf_loByte_hiByte]

/-- A write reaches declared plain storage where there is some, and nothing else of what is declared. -/
theorem DelegateState.afterWrite_ram_get? (ds : DelegateState) (u : Word) (v : Byte) (k : Nat) :
    Memory.get? (ds.afterWrite u v).ram k
      = if k = u.toNat ∧ Memory.get? ds.ram k ≠ none then some v else Memory.get? ds.ram k := by
  unfold DelegateState.afterWrite
  by_cases hk : k = u.toNat
  · subst hk
    cases hg : Memory.get? ds.ram u.toNat <;> simp [hg]
  · cases Memory.get? ds.ram u.toNat <;> simp [hk, Memory.get?_set_other]

/-- A load in RAM leaves the cells it does not reach. -/
theorem hostLoad_ramByte_other {base : Word} {bytes : List Byte} {k : Nat} (hin : base.toNat + bytes.length ≤ 0x2000)
    (hk : ∀ j < bytes.length, (base.toNat + j) % 2048 ≠ k) : (hostLoad base bytes s).ramByte k = s.ramByte k := by
  induction bytes generalizing base s with
  | nil => rfl
  | cons b bs ih =>
    rw [List.length_cons] at hin hk
    have hnext : (base + 1).toNat = base.toNat + 1 := by bv_omega
    have hbase : route base ≠ .ram k := by
      rw [route_ram (by omega)]
      simpa using hk 0 (by omega)
    unfold hostLoad
    rw [add16, ih (by omega) fun j hj => ?_, memWrite_ramByte_other s base b hbase]
    rw [hnext, Nat.add_assoc, Nat.add_comm 1 j]
    exact hk (j + 1) (by omega)

/-- A load in RAM that does not come round to its first cells leaves each byte in the cell of its address. -/
theorem hostLoad_ramByte {base : Word} {bytes : List Byte} {k : Nat} {v : Byte}
    (hin : base.toNat + bytes.length ≤ 0x2000) (hlen : bytes.length ≤ 2048) (hv : bytes[k]? = some v) :
    (hostLoad base bytes s).ramByte ((base.toNat + k) % 2048) = v := by
  induction bytes generalizing base s k with
  | nil => cases hv
  | cons b bs ih =>
    rw [List.length_cons] at hin hlen
    have hnext : (base + 1).toNat = base.toNat + 1 := by bv_omega
    unfold hostLoad
    cases k with
    | zero =>
      obtain rfl : b = v := by simpa using hv
      rw [add16, hostLoad_ramByte_other (by omega) fun j hj => by omega]
      exact memWrite_ramByte_same s base b (route_ram (by omega))
    | succ k =>
      have hcell := ih (base := base + 1) (s := memWrite base b s) (by omega) (by omega) (by simpa using hv)
      rwa [hnext, Nat.add_assoc, Nat.add_comm 1 k] at hcell

end Sys2Proof.Machine
end

section
/-! The statements of spec/20_memory.md, settled: the bus. -/

namespace Sys2Proof.Proofs

open Sys2Proof.Machine Sys2Proof.Claims

/-- Settles O6, by the laws of routing, one per row of the table. -/
theorem addressMapGivesEachAddressItsOwner : Obligations.AddressMapGivesEachAddressItsOwner :=
  fun _ => ⟨route_ram, route_ppu, route_io, route_cart⟩

/-- Settles O7: addresses share a cell when they are equal under the mask. -/
theorem ramMirrorsShareOneCell : Obligations.RamMirrorsShareOneCell := by
  intro s a b v ha hb
  have hra := route_ram ha
  have hwritten := busByte_memWrite_ram (s := s) v hra (route_ram hb)
  refine ⟨fun h => ?_, fun h => ?_, memRead_ram hra, fun h => ?_, ?_⟩
  · rw [hwritten, if_pos ((ramMask_eq_iff a b).mp h).symm]
  · rw [hwritten, if_neg fun hk => h ((ramMask_eq_iff a b).mpr hk.symm)]
  · rw [State.busByte_ram_address s a hra, State.ramByte, h]
  · rw [memWrite_ram_address s a v hra]
    rfl

/-- Settles O8, by the rule for each access at a delegate's address; declared plain storage takes a byte where it has one. -/
theorem delegateSeesEachAccessOnce : Obligations.DelegateSeesEachAccessOnce := by
  intro s a v d u hr
  refine ⟨rfl, by simp only [State.busByte, hr]; rfl, ?_, ((s.delegate d).afterWrite u v).ram, ?_,
    DelegateState.afterWrite_ram_get? (s.delegate d) u v⟩
  · split
    next heffect =>
      rw [State.afterRead_delegate_address s a hr, DelegateState.afterRead, recordRead_of_effect _ heffect]
      cases d <;> rfl
    next heffect => exact State.afterRead_of_no_effect s a hr (by simpa using heffect)
  · rw [memWrite_delegate_address s a v hr]
    cases d <;> rfl

/-- Settles O9: the model's two halves of a word are its quotient and remainder. -/
theorem sixteenBitAccessesAreLittleEndian : Obligations.SixteenBitAccessesAreLittleEndian := by
  intro s a v
  have hlo : BitVec.ofNat 8 (v.toNat % 256) = loByte v := BitVec.eq_of_toNat_eq (by simp)
  have hhi : BitVec.ofNat 8 (v.toNat / 256) = hiByte v := BitVec.eq_of_toNat_eq (by simp; omega)
  exact ⟨wordOf_toNat _ _, rfl, by rw [hlo, hhi]; rfl, memRead16_memWrite16 v⟩

/-- Settles O58: the load leaves each byte in its cell, and its address is routed to that cell. -/
theorem loadedBytesAreReadBack : Obligations.LoadedBytesAreReadBack := by
  intro s base bytes k v hin hlen hv
  have hk : k < bytes.length := (List.getElem?_eq_some_iff.mp hv).1
  have haddr : (base + BitVec.ofNat 16 k).toNat = base.toNat + k := by bv_omega
  rw [State.busByte_ram_address _ _ (route_ram (by omega)), haddr]
  exact hostLoad_ramByte hin hlen hv

end Sys2Proof.Proofs
end

section
/-! Proofs about memory, fourth part: what the tracer shows. -/

namespace Sys2Proof

@[simp] theorem loByte_zext (b : Byte) : loByte (zext b) = b := by
  apply BitVec.eq_of_toNat_eq
  rw [loByte_toNat, zext_toNat]
  exact Nat.mod_eq_of_lt b.isLt

/-- An address with 1 added to its low byte alone: the page's next address, or its first one after its last (rule R115). -/
theorem pageWrap_succ (w : Word) :
    w &&& 0xFF00#16 ||| zext (loByte w + 1) = if w.toNat % 256 = 255 then w - 255 else w + 1 := by
  rw [high_or_zext]
  apply BitVec.eq_of_toNat_eq
  have hlow : (loByte w + 1).toNat = (w.toNat % 256 + 1) % 256 := by simp [BitVec.toNat_add]
  rw [wordOf_toNat, hiByte_toNat, hlow]
  split <;> bv_omega

@[simp] theorem encode_length (i : Instr) : (encode i).length = 1 + i.operand.mode.operandBytes := by
  rw [encode, List.length_cons, Operand.bytes_length, Nat.add_comm]

/-- An instruction's bytes decode to it, whatever follows them. -/
theorem decode_encode (i : Instr) (rest : List Byte) : decode (encode i ++ rest) = .ok (i, rest) := by
  obtain ⟨r, hr, -, -, -, hlen⟩ := opcodeRecord_opcode i
  have hoperands : r.length - 1 = i.operand.bytes.length := by rw [Operand.bytes_length]; omega
  have hlong : ¬ (i.operand.bytes ++ rest).length < i.operand.bytes.length := by rw [List.length_append]; omega
  simp only [encode, List.cons_append, decode, hr, hoperands, if_neg hlong, decodeOpcode_opcode, List.drop_left]

namespace Machine

variable {s : State} {a : Word}

/-! ### Peek and the side-effect test, by owner -/

theorem State.peek_ram {k : Nat} (h : route a = .ram k) : s.peek a = s.ramByte k := by simp only [State.peek, h]

theorem State.peek_delegate {d : DelegateId} {u : Word} (h : route a = .delegate d u) :
    s.peek a = (s.delegate d).peekByte d u := by simp only [State.peek, h]

theorem readMayAct_ram {k : Nat} (h : route a = .ram k) : readMayAct a = false := by simp only [readMayAct, h]

theorem readMayAct_delegate {d : DelegateId} {u : Word} (h : route a = .delegate d u) :
    readMayAct a = Config.readHasSideEffect d u := by simp only [readMayAct, h]

/-! ### The renderings of the modes that index in the zero page or have a pointer -/

variable (s) (m : Mnemonic) (z : Byte)

theorem operandRendering_zeroPageX : operandRendering m (.zeroPageX z) s
    = "$".toList ++ hex2 z ++ ",X @ ".toList ++ hex2 (z + s.x) ++ valueSuffix (zext (z + s.x)) s := by
  show _ ++ hex2 (loByte (zext (z + s.x))) ++ valueSuffix (zext (z + s.x)) s = _
  rw [loByte_zext]

theorem operandRendering_zeroPageY : operandRendering m (.zeroPageY z) s
    = "$".toList ++ hex2 z ++ ",Y @ ".toList ++ hex2 (z + s.y) ++ valueSuffix (zext (z + s.y)) s := by
  show _ ++ hex2 (loByte (zext (z + s.y))) ++ valueSuffix (zext (z + s.y)) s = _
  rw [loByte_zext]

/-- Only JMP and JSR show no value of an absolute operand. -/
theorem operandRendering_absolute (w : Word) : operandRendering m (.absolute w) s
    = if m = .jmp ∨ m = .jsr then "$".toList ++ hex4 w else "$".toList ++ hex4 w ++ valueSuffix w s := by
  have hcalls : (m == .jmp || m == .jsr) = true ↔ m = .jmp ∨ m = .jsr := by simp
  exact if_congr hcalls rfl rfl

theorem operandRendering_indirect {w highAt : Word} (h : w &&& 0xFF00#16 ||| zext (loByte w + 1) = highAt) :
    operandRendering m (.indirect w) s
      = "($".toList ++ hex4 w ++ ")".toList ++ (if readMayAct w ∨ readMayAct highAt then []
          else " = ".toList ++ hex4 (wordOf (s.peek w) (s.peek highAt))) := by
  subst h
  exact congrArg (_ ++ ·) (if_congr Bool.or_eq_true_iff rfl rfl)

/-- The pointer at a zero-page address, its second byte wrapping within the page. -/
def zeroPagePointer (z : Byte) (s : State) : Word := wordOf (s.ramByte z.toNat) (s.ramByte (z + 1).toNat)

theorem peekPointer_indirectX : peekPointer (.indirectX z) s = zeroPagePointer (z + s.x) s := by
  simp only [peekPointer, pointerAddresses, add8, State.peek_ram (route_zext _), zeroPagePointer]

theorem peekPointer_indirectY : peekPointer (.indirectY z) s = zeroPagePointer z s := by
  simp only [peekPointer, pointerAddresses, add8, State.peek_ram (route_zext _), zeroPagePointer]

theorem operandRendering_indirectX : operandRendering m (.indirectX z) s
    = "($".toList ++ hex2 z ++ ",X) @ ".toList ++ hex2 (z + s.x) ++ " = ".toList ++ hex4 (zeroPagePointer (z + s.x) s)
        ++ valueSuffix (zeroPagePointer (z + s.x) s) s := by
  rw [← peekPointer_indirectX]
  rfl

theorem operandRendering_indirectY : operandRendering m (.indirectY z) s
    = "($".toList ++ hex2 z ++ "),Y = ".toList ++ hex4 (zeroPagePointer z s) ++ " @ ".toList
        ++ hex4 (zeroPagePointer z s + zext s.y) ++ valueSuffix (zeroPagePointer z s + zext s.y) s := by
  rw [← peekPointer_indirectY]
  rfl

/-! ### The line -/

/-- Where the bytes at PC are an instruction's, its line carries them and its operand's rendering (rules R246, R247). -/
theorem trace_of_encode {i : Instr} (hi : s.initialised = true)
    (hbytes : peekBytes (encode i).length s.pc s = encode i) :
    trace s = .ok (traceLayout s (encode i) (mnemonicText i.mnemonic)
      (operandRendering i.mnemonic i.operand (s.setPC (s.pc + BitVec.ofNat 16 (encode i).length)))) := by
  obtain ⟨r, hr, -, -, -, hlen⟩ := opcodeRecord_opcode i
  rw [← encode_length] at hlen
  have hcode : s.peek s.pc = i.opcode := by
    rw [encode_length, Nat.add_comm] at hbytes
    exact (List.cons.inj hbytes).1
  have hdecode : decode (encode i) = .ok (i, []) := by simpa using decode_encode i []
  simp only [trace, hi, if_true, hcode, hr, hlen, hbytes, hdecode]

end Machine
end Sys2Proof
end

section
/-! The statements of spec/20_memory.md, settled: the tracer. -/

namespace Sys2Proof.Proofs

open Sys2Proof.Machine Sys2Proof.Claims

/-- Settles O59, by the rendering of each mode and the line of an instruction. -/
theorem tracerHidesSideEffectingValues : Obligations.TracerHidesSideEffectingValues := by
  intro s m w z highAt shown pointer render
  refine ⟨fun a k hk => ⟨readMayAct_ram hk, State.peek_ram hk⟩,
    fun a d u hr => ⟨readMayAct_delegate hr, State.peek_delegate hr⟩, rfl, rfl, rfl, rfl,
    operandRendering_zeroPageX s m z, operandRendering_zeroPageY s m z, fun hjmp hjsr => ?_, fun hm => ?_, rfl, rfl,
    operandRendering_indirect s m (pageWrap_succ w), operandRendering_indirectX s m z,
    operandRendering_indirectY s m z, rfl, fun i hi hbytes => trace_of_encode s hi hbytes⟩
  · exact (operandRendering_absolute s m w).trans (if_neg (not_or.mpr ⟨hjmp, hjsr⟩))
  · exact (operandRendering_absolute s m w).trans (if_pos hm)

end Sys2Proof.Proofs
end

section
/-! Proofs about the encoding (spec/30_encoding.md), first part: what the decoder answers on bytes that decode, and the opcode
table row by row. -/

namespace Sys2Proof

open Sys2Proof.Claims

theorem AddressingMode.operandBytes_le_two (m : AddressingMode) : m.operandBytes ≤ 2 := by cases m <;> decide

/-- What the decoder needs to answer an instruction: a first byte, as many bytes after it as the instruction's mode has, and
the instruction in the table at the two bytes after it (a missing one read as 0). -/
theorem decode_ok {bytes rest : List Byte} {i : Instr} (h : decode bytes = .ok (i, rest)) :
    ∃ code tail, bytes = code :: tail ∧ decodeOpcode code (tail.getD 0 0) (tail.getD 1 0) = some i
      ∧ i.operand.mode.operandBytes ≤ tail.length ∧ rest = tail.drop i.operand.mode.operandBytes := by
  unfold decode at h
  split at h
  · cases h
  next code tail =>
    split at h
    · cases h
    next r hr =>
      split at h
      · cases h
      next hlong =>
        split at h
        next j hj =>
          cases h
          obtain ⟨hcode, -⟩ := opcode_of_decodeOpcode hj
          obtain ⟨r', hr', -, -, -, hlen⟩ := opcodeRecord_opcode i
          rw [hcode, hr] at hr'
          cases hr'
          have hbytes : r.length - 1 = i.operand.mode.operandBytes := by omega
          rw [hbytes] at hlong ⊢
          exact ⟨code, tail, rfl, hj, Nat.le_of_not_lt hlong, rfl⟩
        · cases h

/-- The two bytes the decoder looks at are the first of the list, as far as the list goes. -/
theorem take_getD_getD {tail : List Byte} {n : Nat} (hn : n ≤ 2) (hlong : n ≤ tail.length) :
    [tail.getD 0 0, tail.getD 1 0].take n = tail.take n := by
  match n, tail, hn, hlong with
  | 0, _, _, _ => rfl
  | 1, _ :: _, _, _ => rfl
  | 2, _ :: _ :: _, _, _ => rfl

/-- Bytes that decode are the instruction's own, then the rest. -/
theorem encode_of_decode {bytes rest : List Byte} {i : Instr} (h : decode bytes = .ok (i, rest)) :
    encode i ++ rest = bytes := by
  obtain ⟨code, tail, rfl, hi, hlong, rfl⟩ := decode_ok h
  obtain ⟨hcode, hoperands⟩ := opcode_of_decodeOpcode hi
  rw [take_getD_getD i.operand.mode.operandBytes_le_two hlong] at hoperands
  rw [encode, hcode, hoperands, List.cons_append, List.take_append_drop]

/-- The list of rule R85 is that of the bytes with no row. -/
theorem mem_undocumentedOpcodes_iff (code : Byte) : code.toNat ∈ undocumentedOpcodes ↔ opcodeRecord code = none := by
  revert code
  decide +kernel

/-- The codes of the table rise. -/
theorem opcodeTable_codes_rise : (opcodeTable.map OpcodeRecord.code).IsChain (· < ·) := by decide +kernel

theorem opcodeTable_codes_nodup : (opcodeTable.map OpcodeRecord.code).Nodup :=
  opcodeTable_codes_rise.pairwise.imp BitVec.ne_of_lt

/-- Each row is an encoding that its mnemonic's own rule gives. -/
theorem opcodeTable_encodings : ∀ r ∈ opcodeTable, (r.code.toNat, r.mode) ∈ encodings r.mnemonic := by decide +kernel

end Sys2Proof
end

section
/-! Proofs about the encoding, second part: which step fetches, and what it answers. -/

namespace Sys2Proof.Machine

open Sys2Proof.Claims

variable {s : State}

/-- No interrupt is taken when no NMI is latched and an IRQ is masked (rule R235). -/
theorem pendingInterrupt_eq_none_iff :
    pendingInterrupt s = none ↔ s.nmiPending = false ∧ (s.irqLine = true → getFlag .i s.p = true) := by
  cases hn : s.nmiPending with
  | true => simp [pendingInterrupt, hn]
  | false => simp [pendingInterrupt, State.flag, hn]

/-- A session that can run takes the pending interrupt. -/
theorem sessionStep_interrupt {kind : InterruptKind} (hi : s.initialised = true) (hf : s.fault = none)
    (hr : s.run = .running) (hp : pendingInterrupt s = some kind) :
    sessionStep s = (interruptEntry kind s, .interrupt kind) := by
  simp only [sessionStep, hi, hf, hr, hp, if_true]

/-- A step that fetches is one instruction. -/
theorem sessionStep_fetches (h : fetches s) : sessionStep s = runInstruction s := by
  obtain ⟨hi, hf, hr, hp⟩ := h
  simp only [sessionStep, hi, hf, hr, pendingInterrupt_eq_none_iff.mpr hp, if_true]

/-- The fault leaves the machine as it was after the opcode fetch's read, but for the mark: PC is back at the byte (R231). -/
theorem raiseUnimplemented_fetch (code : Byte) : raiseUnimplemented code s.pc (fetch s).2
    = { s.afterRead s.pc with fault := some (.unimplementedOpcode code s.pc) } := by
  simp [raiseUnimplemented, fetch_eq, State.setPC, State.setFault]

/-- Fetching a byte with no row raises the precise fault (rules R103, R231). -/
theorem sessionStep_of_no_row (h : fetches s) (hrow : opcodeRecord (s.busByte s.pc) = none) :
    sessionStep s = ({ s.afterRead s.pc with fault := some (.unimplementedOpcode (s.busByte s.pc) s.pc) },
      .fault (.unimplementedOpcode (s.busByte s.pc) s.pc)) := by
  rw [sessionStep_fetches h, runInstruction_of_no_row s hrow, raiseUnimplemented_fetch]

theorem step_of_no_row (h : fetches s) (hrow : opcodeRecord (s.busByte s.pc) = none) :
    step s = .fault (.unimplementedOpcode (s.busByte s.pc) s.pc) := by
  rw [step, sessionStep_of_no_row h hrow]
  rfl

theorem step_of_row {r : OpcodeRecord} (h : fetches s) (hrow : opcodeRecord (s.busByte s.pc) = some r) :
    ∃ t, step s = .next t := by
  obtain ⟨-, t, hrun, -⟩ := runInstruction_of_row s hrow
  exact ⟨t, by rw [step, sessionStep_fetches h, hrun]; rfl⟩

theorem step_interrupt {kind : InterruptKind} (hi : s.initialised = true) (hf : s.fault = none) (hr : s.run = .running)
    (hp : pendingInterrupt s = some kind) : step s = .next (interruptEntry kind s) := by
  rw [step, sessionStep_interrupt hi hf hr hp]
  rfl

end Sys2Proof.Machine
end

section
/-! The statements of spec/30_encoding.md, settled. -/

namespace Sys2Proof.Proofs

open Sys2Proof.Machine Sys2Proof.Claims

/-- Settles O1: the row of the opcode gives the layout, and the row's column the instruction. -/
theorem decodeOfEncodeGivesInstructionBack : Obligations.DecodeOfEncodeGivesInstructionBack :=
  fun i rest => ⟨i.wellFormed_true, decode_encode i rest⟩

/-- Settles O2: what the decoder answers has the opcode and the operand bytes it was given. -/
theorem encodeOfDecodedBytesGivesBytesBack : Obligations.EncodeOfDecodedBytesGivesBytesBack :=
  fun _ _ _ h => encode_of_decode h

/-- Settles O3: the listed bytes are those with no row, and no row is the decoder's and the fetch's one reason to refuse. -/
theorem undocumentedBytesRaiseThePreciseFault : Obligations.UndocumentedBytesRaiseThePreciseFault := by
  refine ⟨rfl, mem_undocumentedOpcodes_iff, fun code rest hcode => ?_, fun s hs hcode => ?_⟩
  · exact decode_none rest ((mem_undocumentedOpcodes_iff code).mp hcode)
  · have hrow := (mem_undocumentedOpcodes_iff _).mp hcode
    exact ⟨sessionStep_of_no_row hs hrow, step_of_no_row hs hrow⟩

/-- Settles O4: the table is gone through once for its rows, and `opcodeRecord_opcode` finds each instruction's. -/
theorem tableRowsDescribeInstructions : Obligations.TableRowsDescribeInstructions := by
  refine ⟨rfl, opcodeTable_codes_nodup, opcodeTable_encodings, fun i => ?_⟩
  obtain ⟨r, hr, hcode, hmnemonic, hmode, hlen⟩ := opcodeRecord_opcode i
  exact ⟨r, hr, hcode, hmnemonic, hmode, hlen, hlen.trans (encode_length i).symm⟩

/-- Settles O50, by the first check that applies: halted, an interrupt to take, else a fetch of a byte with or without a row. -/
theorem onlyUndocumentedBytesStopAStep : Obligations.OnlyUndocumentedBytesStopAStep := by
  intro s hi hf
  cases hr : s.run with
  | halted => exact .inl ⟨s, step_halted hi hf hr⟩
  | running =>
    cases hp : pendingInterrupt s with
    | some kind => exact .inl ⟨_, step_interrupt hi hf hr hp⟩
    | none =>
      have hs : fetches s := ⟨hi, hf, hr, pendingInterrupt_eq_none_iff.mp hp⟩
      cases hrow : opcodeRecord (s.busByte s.pc) with
      | some r => exact .inl (step_of_row hs hrow)
      | none => exact .inr ⟨hs, (mem_undocumentedOpcodes_iff _).mpr hrow, step_of_no_row hs hrow⟩

/-- Settles O5: each word is its instruction's encoding, and what follows it is left. -/
theorem sampleWordsDecode : Obligations.SampleWordsDecode :=
  ⟨decode_encode (.ldaImm 0x05) [], decode_encode (.staAbs 0x0800) [], decode_encode .tax [],
    decode_encode (.adcIndY 0x40) [], decode_encode (.andAbsX 0x02FF) [], decode_encode .rorAcc [],
    decode_encode (.incZpX 0x10) [], decode_encode (.bne 0xFB) [], decode_encode (.jsrAbs 0x0700) [],
    decode_encode (.jmpInd 0x30FF) [], decode_encode .brk [0xEA]⟩

end Sys2Proof.Proofs
end

section
/-! Proofs about execution and addressing (spec/40_execution_and_addressing.md), first part: what the resolver answers in each
addressing mode, its crossing included. -/

namespace Sys2Proof

/-- A displacement counts from -128 to 127 (rule R118). -/
theorem sext_toNat (d : Byte) : ((sext d).toNat : Int) = d.toInt % 65536 := by
  have hlt := (sext d).isLt
  rw [← BitVec.toInt_signExtend_of_le (x := d) (by decide : 8 ≤ 16), ← sext, BitVec.toInt_eq_toNat_cond]
  split <;> omega

namespace Machine

open Sys2Proof.Claims

variable (o : Operand) (s : State)

/-- A mode with no pointer makes no bus transaction. -/
theorem resolve_of_no_pointer (h : pointerAddresses o s = none) :
    resolve o s = (⟨effectiveAddress o 0 s, pageCrossed (baseAddress o 0 s) (effectiveAddress o 0 s)⟩, s) := by
  simp only [resolve, readPointer_none o s h]

/-- JMP's pointer is read at its address and at the next one of the same page (rule R115). -/
theorem readPointer_indirect {ptr highAt : Word} (h : ptr &&& 0xFF00#16 ||| zext (loByte ptr + 1) = highAt) :
    readPointer (.indirect ptr) s
      = (wordOf (s.busByte ptr) ((s.afterRead ptr).busByte highAt), (s.afterRead ptr).afterRead highAt) :=
  h ▸ readPointer_some (.indirect ptr) s rfl

theorem pageCrossed_self (a : Word) : pageCrossed a a = false := by simp [pageCrossed]

/-- A mode that does not index crosses no page. -/
theorem resolve_not_crossed (h : ∀ ptr u, effectiveAddress o ptr u = baseAddress o ptr u) :
    (resolve o s).1.crossed = false := by
  rw [resolve_crossed, resolve_ea, h, pageCrossed_self]

end Machine
end Sys2Proof
end

section
/-! Proofs about execution and addressing, second part: the addresses at which a form that stores or pushes writes. -/

namespace Sys2Proof.Machine

open Sys2Proof.Claims

variable {i : Instr} {s t : State}

theorem writtenAddresses_of_storesAtEa (h : storesAtEa i = true) :
    writtenAddresses i.mnemonic i.operand s = [eaOf i.operand s] := by
  obtain ⟨hmemory, hm⟩ := Bool.and_eq_true_iff.mp h
  have ho : i.operand ≠ .accumulator := bne_iff_ne.mp hmemory
  revert hm
  cases i.mnemonic <;> simp [writtenAddresses, ho]

/-- The instructions that push have no pointer. -/
theorem pushes_cases (h : pushes i = true) : i = .pha ∨ i = .php ∨ ∃ w, i = .jsrAbs w := by
  cases i
  case pha => exact .inl rfl
  case php => exact .inr (.inl rfl)
  case jsrAbs w => exact .inr (.inr ⟨w, rfl⟩)
  all_goals cases h

/-- A form that pushes writes at the stack address, and JSR at the next one below too. -/
theorem mem_writtenAddresses_of_pushes (h : pushes i = true) {a : Word}
    (ha : a ∈ writtenAddresses i.mnemonic i.operand s) :
    a = stackAddress s.sp ∨ (i.mnemonic = .jsr ∧ a = stackAddress (s.sp - 1)) := by
  obtain rfl | rfl | ⟨w, rfl⟩ := pushes_cases h
  · exact .inl (List.mem_singleton.mp ha)
  · exact .inl (List.mem_singleton.mp ha)
  · obtain rfl | ha := List.mem_cons.mp ha
    · exact .inl rfl
    · exact .inr ⟨rfl, List.mem_singleton.mp ha⟩

/-- A form that pushes makes no bus transaction outside RAM. -/
theorem exec_delegate_of_pushes (hpush : pushes i = true) (h : exec i s = .next t) (d : DelegateId) :
    t.delegate d = s.delegate d := by
  obtain rfl | rfl | ⟨w, rfl⟩ := pushes_cases hpush <;> cases h
  · simp [pha]
  · simp [php]
  · simp [jsr, pushWord]

end Sys2Proof.Machine
end

section
/-! Proofs about execution and addressing, third part: the fetch of an instruction's bytes, and the step that runs it. -/

namespace Sys2Proof.Machine

open Sys2Proof.Claims

theorem State.afterRead_setPC (s : State) (a w : Word) : (s.setPC w).afterRead a = (s.afterRead a).setPC w := by
  unfold State.afterRead
  split
  · rfl
  next d _ _ => cases d <;> rfl

/-- Where PC stands has no effect on reads. -/
theorem perform_reads_setPC (as : List Word) (s : State) (w : Word) :
    perform (as.map .read) (s.setPC w) = (perform (as.map .read) s).setPC w := by
  induction as generalizing s with
  | nil => rfl
  | cons a as ih =>
    simp only [List.map_cons, perform, State.afterRead_setPC, ih]

/-- The addresses of `n` bytes from `a` on (rules R102, R104). -/
def addressesFrom (a : Word) (n : Nat) : List Word := (List.range n).map fun k => a + BitVec.ofNat 16 k

theorem addressesFrom_succ (a : Word) (n : Nat) : addressesFrom a (n + 1) = a :: addressesFrom (a + 1) n := by
  have hnext (k : Nat) : a + BitVec.ofNat 16 (k + 1) = a + 1 + BitVec.ofNat 16 k := by
    bv_omega
  have hfirst : a + BitVec.ofNat 16 0 = a := BitVec.add_zero a
  simp only [addressesFrom, List.range_succ_eq_map, List.map_cons, List.map_map, Function.comp_def, hfirst,
    Nat.succ_eq_add_one, hnext]

/-- Fetching reads each address once, in rising order, and moves PC past them. -/
theorem fetchOperands_snd (n : Nat) (s : State) :
    (fetchOperands n s).2
      = (perform ((addressesFrom s.pc n).map .read) s).setPC (fetchOperands n s).2.pc := by
  induction n generalizing s with
  | zero => rfl
  | succ n ih =>
    rw [fetchOperands_succ, ih, fetch_eq, addressesFrom_succ, State.setPC_pc, perform_reads_setPC]
    rfl

/-- Where the bytes at PC are an instruction's, fetching and decoding them gives that instruction. -/
theorem runInstruction_of_encode {s t : State} {i : Instr}
    (hbytes : (fetchOperands (encode i).length s).1 = encode i)
    (ht : exec i (fetchOperands (encode i).length s).2 = .next t) :
    runInstruction s = (t, .executed i.opcode) := by
  obtain ⟨r, hr, -, -, -, hlen⟩ := opcodeRecord_opcode i
  have hn : r.length - 1 = i.operand.mode.operandBytes := by omega
  have hdecode : decode (encode i) = .ok (i, []) := by simpa using decode_encode i []
  rw [encode_length, Nat.add_comm, fetchOperands_succ] at hbytes ht
  obtain ⟨hcode, hoperands⟩ := List.cons.inj hbytes
  simp only [runInstruction, hcode, hr, hn, hoperands]
  rw [← encode, hdecode]
  simp only [ht]

theorem step_of_encode {s : State} {i : Instr} (h : fetches s)
    (hbytes : (fetchOperands (encode i).length s).1 = encode i) :
    step s = exec i (fetchOperands (encode i).length s).2 := by
  obtain ⟨t, ht⟩ := exec_next i (fetchOperands (encode i).length s).2
  rw [step, sessionStep_fetches h, runInstruction_of_encode hbytes ht, ht]
  rfl

end Sys2Proof.Machine
end

section
/-! The statements of spec/40_execution_and_addressing.md, settled. -/

namespace Sys2Proof.Proofs

open Sys2Proof.Machine Sys2Proof.Claims

/-- Settles O10: the stack page is RAM, so a push is one write of a cell and a pull one read of it. -/
theorem pushThenPullReturnsTheByte : Obligations.PushThenPullReturnsTheByte := by
  intro s v
  have hback : (push v s).sp + 1 = s.sp := by rw [push_sp, BitVec.sub_add_cancel]
  have htop : (push v s).ramByte (0x100 + s.sp.toNat) = v := by rw [push_ramByte, if_pos rfl]
  refine ⟨push_sp s v, htop, fun k hk => ?_, pull_eq s, ?_, ?_⟩
  · rw [push_ramByte, if_neg hk]
  · rw [pull_eq, hback, htop]
  · rw [pull_eq, hback, State.setSP_sp]

/-- Settles O12, by mode: each address is a byte's extension or a sum, taken modulo the width it wraps at. -/
theorem directModesResolve : Obligations.DirectModesResolve := by
  intro s b w
  refine ⟨⟨?_, rfl⟩, zext_toNat b, ?_, ?_, rfl, ?_, ?_, ?_, fun o ho => ?_⟩
  · show s.pc + 0xFFFF = s.pc - 1
    bv_omega
  · exact (zext_toNat _).trans (BitVec.toNat_add b s.x)
  · exact (zext_toNat _).trans (BitVec.toNat_add b s.y)
  · show (w + zext s.x).toNat = _
    rw [BitVec.toNat_add, zext_toNat]
  · show (w + zext s.y).toNat = _
    rw [BitVec.toNat_add, zext_toNat]
  · show ((s.pc + sext b).toNat : Int) = _
    rw [BitVec.toNat_add, Int.natCast_emod, Int.natCast_add, sext_toNat]
    omega
  · have hnone : pointerAddresses o s = none := by fin_cases ho <;> rfl
    rw [resolve_of_no_pointer o s hnone]

/-- Settles O13: the two pointer bytes of each mode, the second one's address wrapping in its page. -/
theorem indirectModesWrapTheirPointer : Obligations.IndirectModesWrapTheirPointer := by
  intro s z ptr
  have hnext (b : Byte) : (b + 1).toNat = (b.toNat + 1) % 256 := BitVec.toNat_add b 1
  have hindex : (z + s.x + 1).toNat = (z.toNat + s.x.toNat + 1) % 256 := by
    rw [hnext, BitVec.toNat_add, Nat.mod_add_mod]
  refine ⟨?_, ?_, ?_⟩
  · intro highAt
    have hptr := readPointer_indirect s (pageWrap_succ ptr)
    rw [resolve_ea, resolve_snd, hptr]
    exact ⟨wordOf_toNat _ _, rfl⟩
  · rw [resolve_ea, resolve_snd, readPointer_indirectX, ← hindex, ← BitVec.toNat_add]
    exact ⟨wordOf_toNat _ _, rfl⟩
  · rw [resolve_ea, resolve_snd, readPointer_indirectY, ← hnext]
    refine ⟨?_, rfl⟩
    show (wordOf _ _ + zext s.y).toNat = _
    rw [BitVec.toNat_add, wordOf_toNat, zext_toNat]

/-- Settles O14: the crossing compares the high bytes of the address and of its base, and the other modes' address is its
base. -/
theorem pageCrossingFollowsTheHighByte : Obligations.PageCrossingFollowsTheHighByte := by
  intro s z w
  refine ⟨pageCrossed_iff _ _, pageCrossed_iff _ _, ?_, pageCrossed_iff _ _, fun o ho => resolve_not_crossed o s ?_⟩
  · have hhigh : hiByte (readPointer (.indirectY z) s).1 = s.ramByte ((z.toNat + 1) % 256) := by
      rw [readPointer_indirectY, hiByte_wordOf, BitVec.toNat_add]
      rfl
    rw [← hhigh]
    exact pageCrossed_iff _ _
  · fin_cases ho <;> intros <;> rfl

/-- Settles O38: such a form writes at its effective address alone (`exec_busReach`). -/
theorem storingFormsChangeOneByte : Obligations.StoringFormsChangeOneByte := by
  intro i s t hstore h
  have hreach : BusReach [eaOf i.operand s] s t := writtenAddresses_of_storesAtEa hstore ▸ exec_busReach h
  exact ⟨fun k hk => hreach.ramByte_eq (by simpa using hk), fun d u hu => hreach.declared_eq (by simpa using hu)⟩

/-- Settles O39: such a form writes at its stack addresses alone, and these are RAM. -/
theorem pushingFormsChangeTheirStackBytes : Obligations.PushingFormsChangeTheirStackBytes := by
  intro i s t hpush h
  refine ⟨fun k hk hjsr => (exec_busReach h).ramByte_eq fun a ha => ?_, exec_delegate_of_pushes hpush h⟩
  obtain rfl | ⟨hm, rfl⟩ := mem_writtenAddresses_of_pushes hpush ha
  · simpa using hk.symm
  · simpa using (hjsr hm).symm

/-- Settles O44: the fetched bytes decode to the instruction, and fetching them reads each one and moves PC. -/
theorem stepRunsTheDecodedInstruction : Obligations.StepRunsTheDecodedInstruction := by
  intro s i hs hbytes u
  refine ⟨step_of_encode hs hbytes, fetchOperands_pc s _, fetchOperands_ram s _, ?_⟩
  have hfetched := fetchOperands_snd (encode i).length s
  rwa [addressesFrom, List.map_map] at hfetched

end Sys2Proof.Proofs
end

section
/-! Proofs about loads and stores (spec/41_load_store.md), first part: every instruction has one of the encodings that its
mnemonic's rule gives. -/

namespace Sys2Proof

open Sys2Proof.Claims

theorem opcodeRow_subset_opcodeTable (high : Nat) : opcodeRow high ⊆ opcodeTable := by
  unfold opcodeRow
  split
  case h_17 => exact List.nil_subset _
  all_goals exact fun r hr => by simp [opcodeTable, hr]

theorem mem_opcodeTable_of_opcodeRecord {code : Byte} {r : OpcodeRecord} (h : opcodeRecord code = some r) :
    r ∈ opcodeTable :=
  opcodeRow_subset_opcodeTable _ (List.mem_of_find?_eq_some h)

theorem Instr.encodedAs_true (i : Instr) : encodedAs i := by
  obtain ⟨r, hr, hcode, hmnemonic, hmode, -⟩ := opcodeRecord_opcode i
  rw [encodedAs, ← hcode, ← hmode, ← hmnemonic]
  exact opcodeTable_encodings r (mem_opcodeTable_of_opcodeRecord hr)

end Sys2Proof
end

section
/-! Proofs about loads and stores, second part: the resolver and the operand helpers as the bus transactions they make, and so
what the read instructions and the stores answer. -/

namespace Sys2Proof.Machine

open Sys2Proof.Claims

variable {o : Operand} {i : Instr} {m : Mnemonic}

/-! ### Transactions leave the registers -/

section Perform
variable (l l' : List Access) (s : State)

theorem perform_append : perform (l ++ l') s = perform l' (perform l s) := by
  induction l generalizing s with
  | nil => rfl
  | cons x l ih => cases x <;> exact ih _

/-- What one read keeps and one write keeps, a list of transactions keeps. -/
theorem perform_keeps {α : Type} (g : State → α) (hr : ∀ s a, g (s.afterRead a) = g s)
    (hw : ∀ s a v, g (memWrite a v s) = g s) : g (perform l s) = g s := by
  induction l generalizing s with
  | nil => rfl
  | cons x l ih =>
    cases x with
    | read a => exact (ih _).trans (hr s a)
    | write a v => exact (ih _).trans (hw s a v)

@[simp] theorem perform_a : (perform l s).a = s.a := perform_keeps l s State.a State.afterRead_a memWrite_a
@[simp] theorem perform_x : (perform l s).x = s.x := perform_keeps l s State.x State.afterRead_x memWrite_x
@[simp] theorem perform_y : (perform l s).y = s.y := perform_keeps l s State.y State.afterRead_y memWrite_y
@[simp] theorem perform_p : (perform l s).p = s.p := perform_keeps l s State.p State.afterRead_p memWrite_p
@[simp] theorem perform_cycles : (perform l s).cycles = s.cycles :=
  perform_keeps l s State.cycles State.afterRead_cycles memWrite_cycles

end Perform

/-! ### The operand's transactions -/

/-- The resolver's transactions are the pointer's reads (rules R75, R115 to R117). -/
theorem resolve_snd_eq_perform (o : Operand) (s : State) : (resolve o s).2 = perform (pointerReads o s) s := by
  rw [resolve_snd, pointerReads]
  cases h : pointerAddresses o s with
  | none => rw [readPointer_none o s h, perform]
  | some addresses =>
    obtain ⟨lowAt, highAt⟩ := addresses
    rw [readPointer_some o s h, perform, perform, perform]

/-- `Operand()` as transactions, in a mode that has an operand (rules R107, R108, R119). -/
theorem readOperand_eq_perform (s : State) (ho : o.mode ∉ [.implied, .relative]) :
    readOperand o (eaOf o s) (resolve o s).2 = (operandByte o s, perform (operandReads o s) s) := by
  rw [operandReads, perform_append, resolve_snd_eq_perform]
  cases o
  case implied | relative => exact absurd ho (by simp [Operand.mode])
  all_goals rfl

/-! ### The shapes of instructions -/

theorem runRead_eq_perform (code : Byte) (f : Byte → State → State) (s : State)
    (ho : o.mode ∉ [.implied, .relative]) :
    runRead code o f s = .next ((f (operandByte o s) (perform (operandReads o s) s)).addCycles
      (cost code (resolve o s).1.crossed false)) := by
  rw [runRead_next, ← eaOf, readOperand_eq_perform s ho]

theorem runStore_eq_perform (code : Byte) {v : State → Byte} (s : State) (ho : o ≠ .accumulator)
    (hv : ∀ l, v (perform l s) = v s) :
    runStore code o v s = .next ((perform (pointerReads o s ++ [.write (eaOf o s) (v s)]) s).addCycles
      (cost code (resolve o s).1.crossed false)) := by
  rw [runStore_next, writeOperand_memory _ _ _ _ ho, resolve_snd_eq_perform, hv, perform_append]
  rfl

/-- What a read instruction does with its operand (rules R130 to R132, R151 to R155, R160 to R163). -/
def readEffect : Mnemonic → Option (Byte → State → State)
  | .lda => some lda
  | .ldx => some ldx
  | .ldy => some ldy
  | .adc => some adc
  | .sbc => some sbc
  | .cmp => some cmpA
  | .cpx => some cmpX
  | .cpy => some cmpY
  | .bit => some bitTest
  | .and => some andA
  | .ora => some ora
  | .eor => some eor
  | _ => none

theorem execByMnemonic_of_readEffect {f : Byte → State → State} (h : readEffect m = some f) (code : Byte) (o : Operand)
    (s : State) : execByMnemonic m code o s = runRead code o f s := by
  cases m <;> cases h <;> rfl

/-- No read instruction has a mode without an operand. -/
theorem encodings_of_readEffect (h : readEffect m ≠ none) : ∀ e ∈ encodings m, e.2 ∉ [.implied, .relative] := by
  revert h
  cases m <;> simp [readEffect, encodings]

/-- A read instruction makes its operand's reads and takes the byte (rule R119). -/
theorem exec_of_readEffect {f : Byte → State → State} (h : readEffect i.mnemonic = some f) (s : State) :
    exec i s
      = .next ((f (operandByte i.operand s) (perform (operandReads i.operand s) s)).addCycles (costOf i s)) := by
  have hmode : i.operand.mode ∉ [.implied, .relative] :=
    encodings_of_readEffect (h ▸ Option.some_ne_none f) _ i.encodedAs_true
  rw [exec_eq, execByMnemonic_of_readEffect h, runRead_eq_perform _ f s hmode, costOf]

/-- The register a store writes (rules R133 to R135). -/
def storedRegister : Mnemonic → Option (State → Byte)
  | .sta => some State.a
  | .stx => some State.x
  | .sty => some State.y
  | _ => none

section Stores
variable {v : State → Byte}

theorem execByMnemonic_of_storedRegister (h : storedRegister m = some v) (code : Byte) (o : Operand) (s : State) :
    execByMnemonic m code o s = runStore code o v s := by
  cases m <;> cases h <;> rfl

theorem storedRegister_perform (h : storedRegister m = some v) (l : List Access) (s : State) :
    v (perform l s) = v s := by
  cases m <;> cases h
  case sta => exact perform_a l s
  case stx => exact perform_x l s
  case sty => exact perform_y l s

theorem operand_ne_accumulator_of_storedRegister (h : storedRegister i.mnemonic = some v) :
    i.operand ≠ .accumulator := fun ho => by
  have hshift := mnemonic_of_accumulator ho
  revert h hshift
  cases i.mnemonic <;> simp [storedRegister]

/-- A store makes its pointer's reads and the one write (rule R120). -/
theorem exec_of_storedRegister (h : storedRegister i.mnemonic = some v) (s : State) :
    exec i s = .next { perform (pointerReads i.operand s ++ [.write (eaOf i.operand s) (v s)]) s with
      cycles := s.cycles + costOf i s } := by
  rw [exec_eq, execByMnemonic_of_storedRegister h,
    runStore_eq_perform _ s (operand_ne_accumulator_of_storedRegister h) fun l => storedRegister_perform h l s,
    State.addCycles, perform_cycles, costOf]

end Stores

end Sys2Proof.Machine

namespace Sys2Proof.Claims

open Sys2Proof.Machine

/-- `SetZN(v)` leaves the Z and N of `v` (rule R123). -/
theorem znOf_setZN (v p : Byte) : znOf v (setZN v p) := by
  constructor
  · simp [getFlag_setZN]
  · simp [getFlag_setZN, bitOf_seven]

end Sys2Proof.Claims
end

section
/-! The statements of spec/41_load_store.md, settled. -/

namespace Sys2Proof.Proofs

open Sys2Proof.Machine Sys2Proof.Claims

/-- Settles O16: a load is a read instruction (`exec_of_readEffect`), whose reads leave P and the cycles as they were. -/
theorem loadsPutTheOperandInTheRegister : Obligations.LoadsPutTheOperandInTheRegister := by
  intro i s v u
  have hp : u.p = s.p := perform_p _ s
  have hcycles : u.cycles = s.cycles := perform_cycles _ s
  have hzn : znOf v (setZN v u.p) := znOf_setZN v u.p
  have hkept : flagsKept [.z, .n] u.p (setZN v u.p) := flagsKept.refl.setZN_right v
  rw [← hp, ← hcycles]
  refine ⟨fun hi => ⟨i.encodedAs_true, _, ?_, hzn, hkept⟩, fun hi => ⟨i.encodedAs_true, _, ?_, hzn, hkept⟩,
    fun hi => ⟨i.encodedAs_true, _, ?_, hzn, hkept⟩⟩
  · exact exec_of_readEffect (f := lda) (congrArg readEffect hi) s
  · exact exec_of_readEffect (f := ldx) (congrArg readEffect hi) s
  · exact exec_of_readEffect (f := ldy) (congrArg readEffect hi) s

/-- Settles O17: a store is its pointer's reads and one write (`exec_of_storedRegister`). -/
theorem storesWriteTheRegister : Obligations.StoresWriteTheRegister := by
  intro i s stored
  exact ⟨fun hi => ⟨i.encodedAs_true, exec_of_storedRegister (v := State.a) (congrArg storedRegister hi) s⟩,
    fun hi => ⟨i.encodedAs_true, exec_of_storedRegister (v := State.x) (congrArg storedRegister hi) s⟩,
    fun hi => ⟨i.encodedAs_true, exec_of_storedRegister (v := State.y) (congrArg storedRegister hi) s⟩⟩

end Sys2Proof.Proofs
end

section
/-! Proofs about register transfer (spec/42_transfer.md): what an implied form answers that puts a byte in a register and
calls `SetZN` with it. -/

namespace Sys2Proof.Machine

open Sys2Proof.Claims

/-- Such a form of two cycles (rule R84): `u` is the state with the byte in its register, and P gets Z and N (rule R123). -/
theorem runImplied_of_setZN {code v : Byte} (f : State → State) {s : State} (u : State)
    (hcost : cost code false false = 2 := by rfl) (hf : f s = u.setZN v := by rfl) (hp : u.p = s.p := by rfl)
    (hcycles : u.cycles = s.cycles := by rfl) :
    ∃ p, runImplied code f s = .next { u with p := p, cycles := s.cycles + 2 } ∧ znOf v p ∧ flagsKept [.z, .n] s.p p := by
  refine ⟨setZN v s.p, ?_, znOf_setZN v s.p, flagsKept.refl.setZN_right v⟩
  rw [runImplied_next, hf, hcost, ← hp, ← hcycles]
  rfl

end Sys2Proof.Machine
end

section
/-! The statements of spec/42_transfer.md, settled. -/

namespace Sys2Proof.Proofs

open Sys2Proof.Machine Sys2Proof.Claims

/-- Settles O18: the transfers into A, X and Y end with `SetZN` of the byte they copy (`runImplied_of_setZN`); TXS sets SP only. -/
theorem transfersCopyAndTxsWritesNoFlag : Obligations.TransfersCopyAndTxsWritesNoFlag := by
  intro s
  refine ⟨fun i _ => i.encodedAs_true, ?tax, ?tay, ?txa, ?tya, ?tsx, ?txs⟩
  case tax => exact runImplied_of_setZN tax (s.setX s.a)
  case tay => exact runImplied_of_setZN tay (s.setY s.a)
  case txa => exact runImplied_of_setZN txa (s.setA s.x)
  case tya => exact runImplied_of_setZN tya (s.setA s.y)
  case tsx => exact runImplied_of_setZN tsx (s.setX s.sp)
  case txs => exact runImplied_next 0x9A s txs

end Sys2Proof.Proofs
end

section
/-! Proofs about arithmetic and compares (spec/43_arithmetic_compare.md), first part: the ALU's carry and overflow as facts
about whole numbers, for addition and for the subtraction that adds the complement. -/

namespace Sys2Proof.Machine

variable (a m : Byte) (cin : Bool)

theorem addCore_carry_iff : (addCore a m cin).carry = true ↔ 255 < a.toNat + m.toNat + cin.toNat := decide_eq_true_iff

/-- V says that the signed sum is none of a byte (rule R150). -/
theorem addCore_overflow_iff_toInt :
    (addCore a m cin).overflow = true ↔
      (a.toInt + m.toInt + (cin.toNat : Int) < -128 ∨ 127 < a.toInt + m.toInt + (cin.toNat : Int)) := by
  have hresult := addCore_result_toNat a m cin
  have hcin : cin.toNat ≤ 1 := Bool.toNat_le cin
  have ha := a.isLt
  have hm := m.isLt
  simp only [addCore_overflow_iff, BitVec.msb_eq_decide, decide_eq_decide, ne_eq, BitVec.toInt_eq_toNat_cond]
  split <;> split <;> omega

/-- Adding the complement subtracts, the carry in standing for no borrow (rule R152). -/
theorem complement_sum_eq :
    ((a.toNat + (m ^^^ 0xFF).toNat + cin.toNat : Nat) : Int) = a.toNat - m.toNat - (1 - cin.toNat) + 256 := by
  have hm := m.isLt
  rw [complement_toNat]
  omega

theorem addCore_complement_result :
    (addCore a (m ^^^ 0xFF) cin).result = BitVec.ofInt 8 (a.toNat - m.toNat - (1 - cin.toNat)) := by
  show BitVec.ofNat 8 _ = _
  rw [← BitVec.ofInt_natCast, complement_sum_eq]
  exact BitVec.eq_of_toNat_eq (by simp)

theorem addCore_complement_carry_iff :
    (addCore a (m ^^^ 0xFF) cin).carry = true ↔ (0 : Int) ≤ a.toNat - m.toNat - (1 - cin.toNat) := by
  have hsum := complement_sum_eq a m cin
  rw [addCore_carry_iff]
  omega

theorem complement_msb : (m ^^^ 0xFF).msb = !m.msb := by
  rw [BitVec.msb_xor]
  exact Bool.xor_true m.msb

theorem addCore_complement_overflow_iff :
    (addCore a (m ^^^ 0xFF) cin).overflow = true ↔
      (a.msb ≠ m.msb ∧ (addCore a (m ^^^ 0xFF) cin).result.msb ≠ a.msb) := by
  rw [addCore_overflow_iff, complement_msb, Bool.eq_not]

end Sys2Proof.Machine
end

section
/-! Proofs about arithmetic and compares, second part: what the additions and the compares leave in P, and what they answer. -/

namespace Sys2Proof.Claims

open Sys2Proof.Machine

theorem znOf_addFlags (r : AddResult) (p : Byte) : znOf r.result (addFlags r p) := znOf_setZN _ _

theorem flagsKept_addFlags (r : AddResult) (p : Byte) : flagsKept [.c, .v, .z, .n] p (addFlags r p) :=
  ((flagsKept.refl.putFlag_right _).putFlag_right _).setZN_right _

theorem flagsKept_compareFlags (r m p : Byte) : flagsKept [.c, .z, .n] p (compareFlags r m p) :=
  (flagsKept.refl.putFlag_right _).setZN_right _

end Sys2Proof.Claims

namespace Sys2Proof.Machine

open Sys2Proof.Claims

theorem getFlag_c_addFlags (r : AddResult) (p : Byte) : getFlag .c (addFlags r p) = r.carry := by
  simp [getFlag_addFlags]

theorem getFlag_v_addFlags (r : AddResult) (p : Byte) : getFlag .v (addFlags r p) = r.overflow := by
  simp [getFlag_addFlags]

theorem getFlag_c_compareFlags (r m p : Byte) : getFlag .c (compareFlags r m p) = true ↔ m.toNat ≤ r.toNat := by
  simp [getFlag_compareFlags]

theorem getFlag_z_compareFlags (r m p : Byte) : getFlag .z (compareFlags r m p) = true ↔ r = m := by
  have hz : getFlag .z (compareFlags r m p) = (r - m == 0) := getFlag_compareFlags .z r m p
  rw [hz, beq_iff_eq, sub_eq_zero]

theorem getFlag_n_compareFlags (r m p : Byte) : getFlag .n (compareFlags r m p) = (r - m).msb := by
  simp [getFlag_compareFlags, bitOf_seven_eq_msb]

/-- ADC adds its operand, SBC its operand's complement: both are ADC's effect of a byte `g` makes of the operand. -/
theorem exec_of_addition {g : Byte → Byte} {i : Instr} (h : readEffect i.mnemonic = some fun m => adc (g m)) (s : State) :
    let r := addCore s.a (g (operandByte i.operand s)) (getFlag .c s.p)
    exec i s = .next { perform (operandReads i.operand s) s with
      a := r.result, p := addFlags r s.p, cycles := s.cycles + costOf i s } := by
  rw [exec_of_readEffect h, adc, State.flag, perform_a, perform_p, State.addCycles, State.setP_cycles, State.setA_cycles,
    perform_cycles]
  rfl

/-- A compare writes P from its operand and a register that the operand's reads leave. -/
theorem exec_of_compare {reg : State → Byte} {i : Instr} {s : State}
    (h : readEffect i.mnemonic = some fun m u => u.setP (compareFlags (reg u) m u.p))
    (hreg : ∀ l, reg (perform l s) = reg s) :
    exec i s = .next { perform (operandReads i.operand s) s with
      p := compareFlags (reg s) (operandByte i.operand s) s.p, cycles := s.cycles + costOf i s } := by
  rw [exec_of_readEffect h, hreg, perform_p, State.addCycles, State.setP_cycles, perform_cycles]
  rfl

end Sys2Proof.Machine
end

section
/-! The statements of spec/43_arithmetic_compare.md, settled. -/

namespace Sys2Proof.Proofs

open Sys2Proof.Machine Sys2Proof.Claims

/-- Settles O11, by the facts about the ALU's three answers. -/
theorem additionCarryAndOverflowAreExact : Obligations.AdditionCarryAndOverflowAreExact :=
  fun a m cin => ⟨addCore_result_toNat a m cin, addCore_carry_iff a m cin, addCore_overflow_iff_toInt a m cin⟩

/-- Settles O19: ADC's flags are the ALU's answers for A and the operand. -/
theorem adcAddsWithCarry : Obligations.AdcAddsWithCarry := by
  intro i s hi m sum r
  refine ⟨i.encodedAs_true, _, exec_of_addition (g := id) (congrArg readEffect hi) s, ?carry, ?overflow,
    znOf_addFlags _ _, flagsKept_addFlags _ _⟩
  case carry =>
    rw [getFlag_c_addFlags]
    exact addCore_carry_iff s.a m _
  case overflow =>
    rw [getFlag_v_addFlags]
    exact addCore_overflow_iff s.a m _

/-- Settles O20: SBC is ADC of the complement of the operand, by definition, and the complement turns the sum into the difference
(`complement_sum_eq`). -/
theorem sbcSubtractsWithBorrow : Obligations.SbcSubtractsWithBorrow := by
  intro i s hi m difference r
  have hr : r = (addCore s.a (m ^^^ 0xFF) (getFlag .c s.p)).result := (addCore_complement_result s.a m _).symm
  rw [hr]
  refine ⟨i.encodedAs_true, _, exec_of_addition (g := (· ^^^ 0xFF)) (congrArg readEffect hi) s, ?carry, ?overflow,
    znOf_addFlags _ _, flagsKept_addFlags _ _⟩
  case carry =>
    rw [getFlag_c_addFlags]
    exact addCore_complement_carry_iff s.a m _
  case overflow =>
    rw [getFlag_v_addFlags]
    exact addCore_complement_overflow_iff s.a m _

/-- Settles O21: the three compares differ in the register only. -/
theorem comparesWriteOnlyFlags : Obligations.ComparesWriteOnlyFlags := by
  intro i s m compared
  have hcompared (reg : State → Byte) (hreg : ∀ l, reg (perform l s) = reg s)
      (h : readEffect i.mnemonic = some fun m u => u.setP (compareFlags (reg u) m u.p)) : compared (reg s) :=
    ⟨i.encodedAs_true, _, exec_of_compare h hreg, getFlag_c_compareFlags _ _ _, getFlag_z_compareFlags _ _ _,
      getFlag_n_compareFlags _ _ _, flagsKept_compareFlags _ _ _⟩
  exact ⟨fun hi => hcompared State.a (perform_a · s) (congrArg readEffect hi),
    fun hi => hcompared State.x (perform_x · s) (congrArg readEffect hi),
    fun hi => hcompared State.y (perform_y · s) (congrArg readEffect hi)⟩

end Sys2Proof.Proofs
end

section
/-! Proofs about the logical instructions (spec/44_logical.md): what AND, ORA and EOR answer, and what BIT leaves in P. -/

namespace Sys2Proof.Claims

open Sys2Proof.Machine

theorem flagsKept_bitFlags (a m p : Byte) : flagsKept [.z, .v, .n] p (bitFlags a m p) :=
  ((flagsKept.refl.putFlag_right _).putFlag_right _).putFlag_right _

end Sys2Proof.Claims

namespace Sys2Proof.Machine

open Sys2Proof.Claims

theorem getFlag_z_bitFlags (a m p : Byte) : getFlag .z (bitFlags a m p) = true ↔ a &&& m = 0 := by
  simp [getFlag_bitFlags]

theorem getFlag_v_bitFlags (a m p : Byte) : getFlag .v (bitFlags a m p) = m.getLsbD 6 := getFlag_bitFlags .v a m p

theorem getFlag_n_bitFlags (a m p : Byte) : getFlag .n (bitFlags a m p) = m.getLsbD 7 := getFlag_bitFlags .n a m p

/-- AND, ORA and EOR put `op` of A and their operand in A and call `SetZN` with it; the operand's reads leave A and P. -/
theorem exec_of_logical {op : Byte → Byte → Byte} {i : Instr}
    (h : readEffect i.mnemonic = some fun m u => (u.setA (op u.a m)).setZN (op u.a m)) (s : State) :
    let r := op s.a (operandByte i.operand s)
    exec i s = .next { perform (operandReads i.operand s) s with
      a := r, p := setZN r s.p, cycles := s.cycles + costOf i s } := by
  rw [exec_of_readEffect h, perform_a, State.setZN, State.setA_p, perform_p, State.addCycles, State.setP_cycles,
    State.setA_cycles, perform_cycles]
  rfl

/-- BIT writes P only. -/
theorem exec_of_bit {i : Instr} (hi : i.mnemonic = .bit) (s : State) :
    exec i s = .next { perform (operandReads i.operand s) s with
      p := bitFlags s.a (operandByte i.operand s) s.p, cycles := s.cycles + costOf i s } := by
  rw [exec_of_readEffect (congrArg readEffect hi), bitTest, perform_a, perform_p, State.addCycles, State.setP_cycles,
    perform_cycles]
  rfl

end Sys2Proof.Machine
end

section
/-! The statements of spec/44_logical.md, settled. -/

namespace Sys2Proof.Proofs

open Sys2Proof.Machine Sys2Proof.Claims

/-- Settles O22: the three differ in the bitwise operation only (`exec_of_logical`). -/
theorem logicalsCombineWithA : Obligations.LogicalsCombineWithA := by
  intro i s m combined
  have hcombined (op : Byte → Byte → Byte)
      (h : readEffect i.mnemonic = some fun m u => (u.setA (op u.a m)).setZN (op u.a m)) : combined (op s.a m) :=
    ⟨i.encodedAs_true, _, exec_of_logical h s, znOf_setZN _ _, flagsKept.refl.setZN_right _⟩
  exact ⟨fun hi => hcombined (· &&& ·) (congrArg readEffect hi), fun hi => hcombined (· ||| ·) (congrArg readEffect hi),
    fun hi => hcombined (· ^^^ ·) (congrArg readEffect hi)⟩

/-- Settles O23: BIT writes P only (`exec_of_bit`), and what it writes there is `bitFlags`. -/
theorem bitTakesFlagsFromMemory : Obligations.BitTakesFlagsFromMemory := by
  intro i s hi m
  exact ⟨i.encodedAs_true, _, exec_of_bit hi s, getFlag_z_bitFlags s.a m s.p, getFlag_v_bitFlags s.a m s.p,
    getFlag_n_bitFlags s.a m s.p, flagsKept_bitFlags s.a m s.p⟩

end Sys2Proof.Proofs
end

section
/-! Proofs about shifts and rotates (spec/45_shift_rotate.md), first part: a read-modify-write as the bus transactions it makes,
for every mnemonic that is one. -/

namespace Sys2Proof.Machine

open Sys2Proof.Claims

variable {f : Byte → Byte → Byte × Byte} {i : Instr}

/-- In Accumulator mode A is modified, with no transaction (rules R107, R120). -/
theorem runModify_accumulator (code : Byte) (s : State) :
    runModify code .accumulator f s
      = .next (((s.setA (f s.a s.p).1).setP (f s.a s.p).2).addCycles
        (cost code (resolve .accumulator s).1.crossed false)) := rfl

/-- In a memory mode that has no pointer: one read, then one write, of the effective address (rule R120). -/
theorem runModify_eq_perform (code : Byte) {o : Operand} (s : State)
    (ho : o.mode ∈ [.zeroPage, .zeroPageX, .absolute, .absoluteX]) :
    runModify code o f s
      = .next (((perform [.read (eaOf o s), .write (eaOf o s) (f (s.busByte (eaOf o s)) s.p).1] s).setP
          (f (s.busByte (eaOf o s)) s.p).2).addCycles (cost code (resolve o s).1.crossed false)) := by
  have hread : readOperand o (eaOf o s) (resolve o s).2 = memRead (eaOf o s) s := by
    cases o
    case zeroPage | zeroPageX | absolute | absoluteX => rfl
    all_goals exact absurd ho (by simp [Operand.mode])
  have hmem : o ≠ .accumulator := by
    rintro rfl
    exact absurd ho (by decide)
  rw [runModify_next, ← eaOf, hread, memRead]
  dsimp only
  rw [State.afterRead_p, writeOperand_memory _ _ _ _ hmem]
  rfl

/-- What a read-modify-write makes of the old byte and P (rules R170 to R173, R180, R181). -/
def modifyEffect : Mnemonic → Option (Byte → Byte → Byte × Byte)
  | .asl => some asl
  | .lsr => some lsr
  | .rol => some rol
  | .ror => some ror
  | .inc => some inc
  | .dec => some dec
  | _ => none

theorem execByMnemonic_of_modifyEffect {m : Mnemonic} (h : modifyEffect m = some f) (code : Byte) (o : Operand) (s : State) :
    execByMnemonic m code o s = runModify code o f s := by
  cases m <;> cases h <;> rfl

/-- A read-modify-write has Accumulator mode or one of four memory modes. -/
theorem encodings_of_modifyEffect {m : Mnemonic} (h : modifyEffect m ≠ none) :
    ∀ e ∈ encodings m, e.2 ∈ [.accumulator, .zeroPage, .zeroPageX, .absolute, .absoluteX] := by
  revert h
  cases m <;> simp [modifyEffect, encodings]

theorem operand_eq_accumulator_of_mode {o : Operand} (h : o.mode = .accumulator) : o = .accumulator := by
  cases o
  case accumulator => rfl
  all_goals cases h

theorem exec_of_modifyEffect_accumulator (h : modifyEffect i.mnemonic = some f) (ho : i.operand = .accumulator) (s : State) :
    exec i s = .next { s with
      a := (f s.a s.p).1, p := (f s.a s.p).2, cycles := s.cycles + costOf i s } := by
  rw [exec_eq, execByMnemonic_of_modifyEffect h, costOf, ho, runModify_accumulator]
  rfl

theorem exec_of_modifyEffect_memory (h : modifyEffect i.mnemonic = some f) (ho : i.operand ≠ .accumulator) (s : State) :
    let ea := eaOf i.operand s
    exec i s = .next { perform [.read ea, .write ea (f (s.busByte ea) s.p).1] s with
      p := (f (s.busByte ea) s.p).2, cycles := s.cycles + costOf i s } := by
  have hmodes : i.operand.mode ∈ [.accumulator, .zeroPage, .zeroPageX, .absolute, .absoluteX] :=
    encodings_of_modifyEffect (h ▸ Option.some_ne_none f) _ i.encodedAs_true
  have hmode := (List.mem_cons.mp hmodes).resolve_left fun hacc => ho (operand_eq_accumulator_of_mode hacc)
  rw [exec_eq, execByMnemonic_of_modifyEffect h, runModify_eq_perform _ s hmode, State.addCycles, State.setP_cycles,
    perform_cycles]
  rfl

/-- The forms in Accumulator mode take two cycles (rule R84). -/
theorem costOf_accumulator (h : i.operand = .accumulator) (s : State) : costOf i s = 2 := by
  cases i
  case aslAcc | lsrAcc | rolAcc | rorAcc => rfl
  all_goals cases h

end Sys2Proof.Machine
end

section
/-! Proofs about shifts and rotates, second part: the shifts of bits as multiplication and division by two, and what they leave
in P. -/

namespace Sys2Proof.Machine

open Sys2Proof.Claims

variable (v : Byte) (cin : Bool)

theorem aslOf_eq : aslOf v = (BitVec.ofNat 8 (2 * v.toNat % 256), decide (0x80 ≤ v.toNat)) := by
  revert v
  decide

theorem lsrOf_eq : lsrOf v = (BitVec.ofNat 8 (v.toNat / 2), decide (v.toNat % 2 = 1)) := by
  revert v
  decide

theorem rolOf_eq : rolOf cin v = (BitVec.ofNat 8 (2 * v.toNat % 256 + cin.toNat), decide (0x80 ≤ v.toNat)) := by
  revert v cin
  decide

theorem rorOf_eq : rorOf cin v = (BitVec.ofNat 8 (v.toNat / 2 + 128 * cin.toNat), decide (v.toNat % 2 = 1)) := by
  revert v cin
  decide

/-- A shift or rotate gives the number and the carry of `shiftOf`; P follows from them. -/
theorem modifyEffect_of_shiftOf {m : Mnemonic} {v p : Byte} {r : Nat} {out : Bool}
    (h : shiftOf m v (getFlag .c p) = some (r, out)) :
    ∃ f, modifyEffect m = some f ∧ f v p = (BitVec.ofNat 8 r, shiftFlags (BitVec.ofNat 8 r, out) p) := by
  cases m <;> cases h
  case asl => exact ⟨asl, rfl, by rw [asl, aslOf_eq]⟩
  case lsr => exact ⟨lsr, rfl, by rw [lsr, lsrOf_eq]⟩
  case rol => exact ⟨rol, rfl, by rw [rol, rolOf_eq]⟩
  case ror => exact ⟨ror, rfl, by rw [ror, rorOf_eq]⟩

theorem getFlag_c_shiftFlags (r : Byte × Bool) (p : Byte) : getFlag .c (shiftFlags r p) = r.2 :=
  getFlag_shiftFlags .c r p

end Sys2Proof.Machine

namespace Sys2Proof.Claims

open Sys2Proof.Machine

theorem znOf_shiftFlags (r : Byte × Bool) (p : Byte) : znOf r.1 (shiftFlags r p) := znOf_setZN _ _

theorem flagsKept_shiftFlags (r : Byte × Bool) (p : Byte) : flagsKept [.c, .z, .n] p (shiftFlags r p) :=
  (flagsKept.refl.putFlag_right _).setZN_right _

end Sys2Proof.Claims
end

section
/-! The statement of spec/45_shift_rotate.md, settled. -/

namespace Sys2Proof.Proofs

open Sys2Proof.Machine Sys2Proof.Claims

/-- Settles O24: `shiftOf` says what a shift or rotate makes of its byte and P (`modifyEffect_of_shiftOf`), whether the byte is A
or in memory. -/
theorem shiftsMoveOneBitThroughTheCarry : Obligations.ShiftsMoveOneBitThroughTheCarry := by
  intro i s r out written
  have hwritten : written (shiftFlags (BitVec.ofNat 8 r, out) s.p) :=
    ⟨getFlag_c_shiftFlags _ _, znOf_shiftFlags _ _, flagsKept_shiftFlags _ _⟩
  refine ⟨fun ho h => ⟨i.encodedAs_true, _, ?accumulator, hwritten⟩, fun ho h => ⟨i.encodedAs_true, _, ?memory, hwritten⟩⟩
  case accumulator =>
    obtain ⟨f, hf, hvalue⟩ := modifyEffect_of_shiftOf h
    rw [exec_of_modifyEffect_accumulator hf ho, hvalue, costOf_accumulator ho]
  case memory =>
    obtain ⟨f, hf, hvalue⟩ := modifyEffect_of_shiftOf h
    rw [exec_of_modifyEffect_memory hf ho, hvalue]

end Sys2Proof.Proofs
end

section
/-! Proofs about increments and decrements (spec/46_inc_dec.md): INC and DEC replace a byte of memory by `g` of it, and P gets
Z and N of the new byte. -/

namespace Sys2Proof.Machine

open Sys2Proof.Claims

variable {i : Instr}

/-- INC and DEC have no Accumulator mode (rules R84, R180, R181). -/
theorem operand_ne_accumulator_of_inc_or_dec (h : i.mnemonic = .inc ∨ i.mnemonic = .dec) :
    i.operand ≠ .accumulator := fun ho => by
  have hshift := mnemonic_of_accumulator ho
  rcases h with h | h <;> simp [h] at hshift

/-- INC and DEC in memory: one read, one write of the new byte, and `SetZN` of it (rules R120, R123). -/
theorem exec_of_memory_count {g : Byte → Byte} (h : modifyEffect i.mnemonic = some fun v p => (g v, setZN (g v) p))
    (ho : i.operand ≠ .accumulator) (s : State) :
    let ea := eaOf i.operand s
    let r := g (s.busByte ea)
    ∃ p, exec i s = .next { perform [.read ea, .write ea r] s with p := p, cycles := s.cycles + costOf i s }
      ∧ znOf r p ∧ flagsKept [.z, .n] s.p p :=
  ⟨_, exec_of_modifyEffect_memory h ho s, znOf_setZN _ _, flagsKept.refl.setZN_right _⟩

end Sys2Proof.Machine
end

section
/-! The statements of spec/46_inc_dec.md, settled. -/

namespace Sys2Proof.Proofs

open Sys2Proof.Machine Sys2Proof.Claims

/-- Settles O25: INC and DEC are in memory in every mode, and there each ends with `SetZN` of the byte it wrote
(`exec_of_memory_count`). -/
theorem incDecOfMemoryReadThenWrite : Obligations.IncDecOfMemoryReadThenWrite := by
  intro i s ea modified
  refine ⟨fun hi => ⟨i.encodedAs_true, ?inc⟩, fun hi => ⟨i.encodedAs_true, ?dec⟩⟩
  case inc =>
    exact exec_of_memory_count (g := (· + 1)) (congrArg modifyEffect hi) (operand_ne_accumulator_of_inc_or_dec (.inl hi)) s
  case dec =>
    exact exec_of_memory_count (g := (· - 1)) (congrArg modifyEffect hi) (operand_ne_accumulator_of_inc_or_dec (.inr hi)) s

/-- Settles O26: each form ends with `SetZN` of the byte it leaves in its register (`runImplied_of_setZN`). -/
theorem indexRegistersCountAndWrap : Obligations.IndexRegistersCountAndWrap := by
  intro s
  refine ⟨fun i _ => i.encodedAs_true, ?inx, ?iny, ?dex, ?dey⟩
  case inx => exact runImplied_of_setZN inx (s.setX (s.x + 1))
  case iny => exact runImplied_of_setZN iny (s.setY (s.y + 1))
  case dex => exact runImplied_of_setZN dex (s.setX (s.x - 1))
  case dey => exact runImplied_of_setZN dey (s.setY (s.y - 1))

end Sys2Proof.Proofs
end

section
/-! Proofs about branches (spec/47_branch.md): the eight rows of Relative mode cost alike, and a branch therefore answers the
state after it, whichever flag it asks for. -/

namespace Sys2Proof.Machine

open Sys2Proof.Claims

theorem opcodeTable_relative_rows : ∀ r ∈ opcodeTable, r.mode = .relative → r.baseCycles = 2 ∧ r.pageCrossPenalty = false := by
  decide +kernel

/-- A branch costs 2, one more if taken, and one more again if its target is on another page (rules R190, R269, R270). -/
theorem cost_of_relative {i : Instr} (h : i.operand.mode = .relative) (crossed taken : Bool) :
    cost i.opcode crossed taken = 2 + if taken then 1 + (if crossed then 1 else 0) else 0 := by
  obtain ⟨r, hr, -, -, hmode, -⟩ := opcodeRecord_opcode i
  rw [h] at hmode
  obtain ⟨hbase, hpenalty⟩ := opcodeTable_relative_rows r (mem_opcodeTable_of_opcodeRecord hr) hmode
  simp [cost_of_row crossed taken hr, hmode, hbase, hpenalty]

/-- What the crossing costs, by the two high bytes (rules R124, R190). -/
theorem ite_pageCrossed (base ea : Word) :
    (if pageCrossed base ea then 1 else 0) = if hiByte ea = hiByte base then 0 else 1 :=
  (if_congr ((pageCrossed_iff base ea).trans ne_comm) rfl rfl).trans (ite_not ..)

theorem runBranch_eq_afterBranch {i : Instr} (h : i.operand.mode = .relative) (d : Byte) (taken : Bool) (s : State) :
    runBranch i.opcode d taken s = .next (afterBranch d taken s) := by
  rw [runBranch_next, cost_of_relative h]
  cases taken with
  | false => rfl
  | true =>
    simp only [afterBranch, if_true, ite_pageCrossed, State.addCycles, State.setPC_cycles, Nat.add_assoc]
    rfl

end Sys2Proof.Machine
end

section
/-! The statement of spec/47_branch.md, settled. -/

namespace Sys2Proof.Proofs

open Sys2Proof.Machine Sys2Proof.Claims

/-- Settles O27: the eight differ in their condition only (`runBranch_eq_afterBranch`). -/
theorem branchesGoWhereTheirFlagSays : Obligations.BranchesGoWhereTheirFlagSays := by
  intro s d
  refine ⟨fun i _ => i.encodedAs_true, ?bpl, ?bmi, ?bvc, ?bvs, ?bcc, ?bcs, ?bne, ?beq⟩
  case bpl => exact runBranch_eq_afterBranch (i := .bpl d) rfl d (!s.flag .n) s
  case bmi => exact runBranch_eq_afterBranch (i := .bmi d) rfl d (s.flag .n) s
  case bvc => exact runBranch_eq_afterBranch (i := .bvc d) rfl d (!s.flag .v) s
  case bvs => exact runBranch_eq_afterBranch (i := .bvs d) rfl d (s.flag .v) s
  case bcc => exact runBranch_eq_afterBranch (i := .bcc d) rfl d (!s.flag .c) s
  case bcs => exact runBranch_eq_afterBranch (i := .bcs d) rfl d (s.flag .c) s
  case bne => exact runBranch_eq_afterBranch (i := .bne d) rfl d (!s.flag .z) s
  case beq => exact runBranch_eq_afterBranch (i := .beq d) rfl d (s.flag .z) s

end Sys2Proof.Proofs
end

section
/-! Proofs about the stack, calls and returns (spec/48_stack_call_return.md), first part: pushes as writes on the stack
page made one after another, and pulls as the bytes above SP. -/

namespace Sys2Proof.Machine

open Sys2Proof.Claims

variable (s : State) (v : Byte) (w : Word)

/-! ### Bus transactions go by the memories: the registers have no part in them -/

section Registers

variable (r : State) (a : Word)

/-- The memories of `s`, and every other field of `r`. -/
def State.withRegistersOf (s r : State) : State := { r with ram := s.ram, ppu := s.ppu, io := s.io, cart := s.cart }

theorem State.busByte_withRegistersOf : (s.withRegistersOf r).busByte a = s.busByte a := by
  unfold State.busByte
  split
  · rfl
  next d _ _ => cases d <;> rfl

theorem State.afterRead_withRegistersOf : (s.withRegistersOf r).afterRead a = (s.afterRead a).withRegistersOf r := by
  unfold State.afterRead
  split
  · rfl
  next d _ _ => cases d <;> rfl

theorem memWrite_withRegistersOf : memWrite a v (s.withRegistersOf r) = (memWrite a v s).withRegistersOf r := by
  unfold memWrite
  split
  · rfl
  next d _ _ => cases d <;> rfl

theorem perform_withRegistersOf (l : List Access) : perform l (s.withRegistersOf r) = (perform l s).withRegistersOf r := by
  induction l generalizing s with
  | nil => rfl
  | cons x l ih =>
    cases x with
    | read a => rw [perform, perform, State.afterRead_withRegistersOf, ih]
    | write a v => rw [perform, perform, memWrite_withRegistersOf, ih]

/-- Transactions leave all but the memories. -/
theorem perform_eq_withRegistersOf (l : List Access) : perform l s = (perform l s).withRegistersOf s :=
  perform_withRegistersOf s s l

@[simp] theorem perform_nmiPending (l : List Access) : (perform l s).nmiPending = s.nmiPending :=
  perform_keeps l s State.nmiPending State.afterRead_nmiPending memWrite_nmiPending

/-- A 16-bit read is two reads, the low byte's first (rule R58). -/
theorem memRead16_withRegistersOf : memRead16 a (s.withRegistersOf r)
    = (wordOf (s.busByte a) ((s.afterRead a).busByte (a + 1)), (perform [.read a, .read (a + 1)] s).withRegistersOf r) := by
  simp only [memRead16, memRead, State.afterRead_withRegistersOf, State.busByte_withRegistersOf]
  rfl

theorem memWrite_setSP (sp : Byte) : memWrite a v (s.setSP sp) = (memWrite a v s).setSP sp :=
  (memWrite_withRegistersOf s v (s.setSP sp) a).trans (congrArg (State.setSP sp) (memWrite_withRegistersOf s v s a)).symm

end Registers

/-! ### Pushes and pulls -/

/-- A push is one write at the SP it finds (rule R121). -/
theorem push_setSP (sp : Byte) :
    push v (s.setSP sp) = (memWrite (0x0100#16 + zext sp) v s).setSP (sp - 1) := by
  rw [push, State.setSP_sp, stackAddress_eq_add, memWrite_setSP]
  rfl

theorem push_eq_memWrite : push v s = (memWrite (0x0100#16 + zext s.sp) v s).setSP (s.sp - 1) := push_setSP s v s.sp

theorem pushWord_eq_memWrite : pushWord w s
    = (memWrite (0x0100#16 + zext (s.sp - 1)) (loByte w) (memWrite (0x0100#16 + zext s.sp) (hiByte w) s)).setSP
      (s.sp - 2) := by
  have hsp : s.sp - 1 - 1 = s.sp - 2 := by bv_omega
  rw [pushWord, push_eq_memWrite s, push_setSP, hsp]

theorem pushWord_sp : (pushWord w s).sp = s.sp - 2 := by rw [pushWord_eq_memWrite, State.setSP_sp]

theorem pull_eq_stackByte : pull s = (stackByte (s.sp + 1) s, s.setSP (s.sp + 1)) := pull_eq s

/-- The low byte is pulled first (rules R205, R206). -/
theorem pullWord_eq_stackByte :
    pullWord s = (wordOf (stackByte (s.sp + 1) s) (stackByte (s.sp + 2) s), s.setSP (s.sp + 2)) := by
  have hsp : s.sp + 1 + 1 = s.sp + 2 := by bv_omega
  simp only [pullWord, pull_eq_stackByte, State.setSP_sp, hsp]
  rfl

/-! ### The stack page after a push -/

theorem stackByte_push (sp : Byte) : stackByte sp (push v s) = if sp = s.sp then v else stackByte sp s := by
  have hcell : 0x100 + sp.toNat = 0x100 + s.sp.toNat ↔ sp = s.sp := by rw [Nat.add_left_cancel_iff, BitVec.toNat_inj]
  rw [stackByte, push_ramByte]
  exact if_congr hcell rfl rfl

/-- A pushed word has its high byte where SP was and its low byte below. -/
theorem stackByte_pushWord (sp : Byte) : stackByte sp (pushWord w s)
    = if sp = s.sp - 1 then loByte w else if sp = s.sp then hiByte w else stackByte sp s := by
  rw [pushWord, stackByte_push, push_sp, stackByte_push]

/-- The two bytes from where a word was pushed are that word. -/
theorem wordOf_stackByte_pushWord :
    wordOf (stackByte (s.sp - 1) (pushWord w s)) (stackByte s.sp (pushWord w s)) = w := by
  have hne : s.sp ≠ s.sp - 1 := by bv_omega
  rw [stackByte_pushWord, if_pos rfl, stackByte_pushWord, if_neg hne, if_pos rfl, wordOf_loByte_hiByte]

end Sys2Proof.Machine
end

section
/-! Proofs about the stack, calls and returns, second part: what the instructions and the interrupt entry answer. -/

namespace Sys2Proof.Machine

open Sys2Proof.Claims

/-! ### The copies of P on the stack differ from it in B and U only -/

theorem flagsKept_b_u {p q : Byte} (h : ∀ f, f ≠ .b → f ≠ .u → getFlag f q = getFlag f p) : flagsKept [.b, .u] p q := by
  intro f hf
  simp only [List.mem_cons, List.not_mem_nil, or_false, not_or] at hf
  exact h f hf.1 hf.2

theorem flagsKept_pushedByPhp (p : Byte) : flagsKept [.b, .u] p (pushedByPhp p) :=
  flagsKept_b_u fun f hb hu => by rw [getFlag_pushedByPhp, if_neg (not_or.mpr ⟨hb, hu⟩)]

theorem flagsKept_pushedByInterrupt (p : Byte) : flagsKept [.b, .u] p (pushedByInterrupt p) :=
  flagsKept_b_u fun f hb hu => by rw [getFlag_pushedByInterrupt, if_neg hb, if_neg hu]

theorem flagsKept_pulledStatus (p : Byte) : flagsKept [.b, .u] p (pulledStatus p) :=
  flagsKept_b_u fun f hb hu => by rw [getFlag_pulledStatus, if_neg hb, if_neg hu]

/-! ### Calls and returns -/

variable (s : State)

theorem exec_jsr (w : Word) : exec (.jsrAbs w) s = .next (((pushWord (s.pc - 1) s).setPC w).addCycles 6) := by
  have hpc : add16 s.pc 0xFFFF = s.pc - 1 := by
    show s.pc + 0xFFFF = s.pc - 1
    bv_omega
  rw [← hpc]
  rfl

theorem exec_rts : exec .rts s = .next { s with
    sp := s.sp + 2, pc := wordOf (stackByte (s.sp + 1) s) (stackByte (s.sp + 2) s) + 1, cycles := s.cycles + 6 } := by
  show runImplied 0x60 rts s = _
  rw [runImplied_next, rts, pullWord_eq_stackByte]
  rfl

theorem exec_rti : exec .rti s = .next { s with
    sp := s.sp + 3, p := pulledStatus (stackByte (s.sp + 1) s),
    pc := wordOf (stackByte (s.sp + 2) s) (stackByte (s.sp + 3) s), cycles := s.cycles + 6 } := by
  have hlow : s.sp + 1 + 1 = s.sp + 2 := by bv_omega
  have hhigh : s.sp + 1 + 2 = s.sp + 3 := by bv_omega
  show runImplied 0x40 returnFromInterrupt s = _
  simp only [runImplied_next, returnFromInterrupt, pull_eq_stackByte, pullWord_eq_stackByte, State.setP_sp, State.setSP_sp,
    hlow, hhigh]
  rfl

/-! ### Interrupt entry -/

/-- The three writes of interrupt entry (rule R237). -/
def entryWrites (s : State) : List Access :=
  [.write (0x0100 + zext s.sp) (hiByte s.pc), .write (0x0100 + zext (s.sp - 1)) (loByte s.pc),
    .write (0x0100 + zext (s.sp - 2)) (pushedByInterrupt s.p)]

theorem push_pushWord_eq_perform :
    push (pushedByInterrupt s.p) (pushWord s.pc s) = (perform (entryWrites s) s).setSP (s.sp - 3) := by
  have hsp : s.sp - 2 - 1 = s.sp - 3 := by bv_omega
  rw [pushWord_eq_memWrite, push_setSP, hsp]
  rfl

/-- Interrupt entry: three writes, then the two reads of the vector; only an NMI drops the latch (rule R237). -/
theorem interruptEntry_eq (kind : InterruptKind) :
    let w := perform (entryWrites s) s
    let vector := kind.vector
    interruptEntry kind s = { perform [.read vector, .read (vector + 1)] w with
      sp := s.sp - 3, p := putFlag .i true s.p
      pc := wordOf (w.busByte vector) ((w.afterRead vector).busByte (vector + 1))
      nmiPending := decide (kind = .irq) && s.nmiPending, cycles := s.cycles + 7 } := by
  intro w vector
  have hpush : push (pushedByInterrupt s.p) (pushWord s.pc s) = w.setSP (s.sp - 3) := push_pushWord_eq_perform s
  have hp : w.p = s.p := perform_p _ s
  have hnmi : w.nmiPending = s.nmiPending := perform_nmiPending s _
  have hcycles : w.cycles = s.cycles := perform_cycles _ s
  have hreads := perform_eq_withRegistersOf w [.read vector, .read (vector + 1)]
  have hload (u : State) := congrArg (fun q : Word × State => (q.2.setPC q.1).addCycles 7)
    (memRead16_withRegistersOf w u vector)
  unfold interruptEntry
  rw [hpush, hreads, ← hp, ← hnmi, ← hcycles]
  clear_value w
  cases kind with
  | nmi => exact hload (((w.setSP (s.sp - 3)).putFlag .i true).setNmiPending false)
  | irq => exact hload ((w.setSP (s.sp - 3)).putFlag .i true)

/-- The vector's reads leave the stack page. -/
theorem stackByte_interruptEntry (kind : InterruptKind) (sp : Byte) : stackByte sp (interruptEntry kind s)
    = if sp = s.sp - 2 then pushedByInterrupt s.p else stackByte sp (pushWord s.pc s) := by
  rw [← pushWord_sp s s.pc, ← stackByte_push]
  cases kind <;> simp [interruptEntry, memRead16, stackByte]

end Sys2Proof.Machine
end

section
/-! The statements of spec/48_stack_call_return.md, settled. -/

namespace Sys2Proof.Proofs

open Sys2Proof.Machine Sys2Proof.Claims

/-- Settles O28: each is one push (`push_eq_memWrite`), and PHP pushes a copy of P. -/
theorem phaAndPhpPushOneByte : Obligations.PhaAndPhpPushOneByte := by
  intro s
  have hpush (v : Byte) : (push v s).addCycles 3
      = { memWrite (0x0100 + zext s.sp) v s with sp := s.sp - 1, cycles := s.cycles + 3 } := by
    rw [push_eq_memWrite, State.addCycles, State.setSP_cycles, memWrite_cycles]
    rfl
  refine ⟨fun i _ => i.encodedAs_true, congrArg _ (hpush s.a), pushedByPhp s.p, congrArg _ (hpush (pushedByPhp s.p)),
    getFlag_pushedByPhp .b s.p, getFlag_pushedByPhp .u s.p, flagsKept_pushedByPhp s.p⟩

/-- Settles O29: a pull gives the byte above SP. -/
theorem plaAndPlpPullOneByte : Obligations.PlaAndPlpPullOneByte := by
  intro s
  refine ⟨fun i _ => i.encodedAs_true, ⟨_, ?pla, znOf_setZN _ s.p, flagsKept.refl.setZN_right _⟩,
    ⟨_, ?plp, getFlag_pulledStatus .b _, getFlag_pulledStatus .u _, flagsKept_pulledStatus _⟩⟩
  case pla =>
    show runImplied 0x68 pla s = _
    rw [runImplied_next, pla, pull_eq_stackByte]
    rfl
  case plp =>
    show runImplied 0x28 plp s = _
    rw [runImplied_next, plp, pull_eq_stackByte]
    rfl

/-- Settles O30: the word that JSR pushes is two writes (`pushWord_eq_memWrite`). -/
theorem jsrPushesItsLastByteAddress : Obligations.JsrPushesItsLastByteAddress := by
  intro s w
  refine ⟨fun i _ => i.encodedAs_true, ?_⟩
  rw [exec_jsr, State.addCycles, State.setPC_cycles, pushWord_eq_memWrite, State.setSP_cycles, memWrite_cycles,
    memWrite_cycles]
  rfl

/-- Settles O31, by what RTS answers. -/
theorem rtsReturnsPastThePulledAddress : Obligations.RtsReturnsPastThePulledAddress :=
  fun s => ⟨Instr.encodedAs_true .rts, exec_rts s⟩

/-- Settles O32: RTS pulls the two bytes that JSR pushed, and adds back the 1 that JSR took off. -/
theorem rtsUndoesJsr : Obligations.RtsUndoesJsr := by
  intro s t w h
  rw [exec_jsr] at h
  cases h
  let called := ((pushWord (s.pc - 1) s).setPC w).addCycles 6
  have hsp : called.sp = s.sp - 2 := pushWord_sp s (s.pc - 1)
  have hpage (sp : Byte) : stackByte sp called = stackByte sp (pushWord (s.pc - 1) s) := rfl
  have hlow : s.sp - 2 + 1 = s.sp - 1 := by bv_omega
  have hhigh : s.sp - 2 + 2 = s.sp := BitVec.sub_add_cancel s.sp 2
  have hrts := exec_rts called
  rw [hsp, hpage, hpage, hlow, hhigh, wordOf_stackByte_pushWord, BitVec.sub_add_cancel] at hrts
  refine ⟨_, hrts, rfl, rfl, ?regA, ?regX, ?regY, ?regP⟩
  case regA | regX | regY | regP => simp [called, pushWord]

/-- Settles O33, by what RTI answers. -/
theorem rtiPullsStatusAndPc : Obligations.RtiPullsStatusAndPc := fun s =>
  ⟨Instr.encodedAs_true .rti, _, exec_rti s, getFlag_pulledStatus .b _, getFlag_pulledStatus .u _, flagsKept_pulledStatus _⟩

/-- Settles O49: RTI pulls the three bytes that the entry pushed (`stackByte_interruptEntry`). -/
theorem rtiUndoesInterruptEntry : Obligations.RtiUndoesInterruptEntry := by
  intro s kind
  have hentry := interruptEntry_eq s kind
  have hsp : (interruptEntry kind s).sp = s.sp - 3 := by rw [hentry]
  have hstatus : stackByte (s.sp - 3 + 1) (interruptEntry kind s) = pushedByInterrupt s.p := by
    rw [stackByte_interruptEntry, if_pos (by bv_omega)]
  have hlow : stackByte (s.sp - 3 + 2) (interruptEntry kind s) = stackByte (s.sp - 1) (pushWord s.pc s) := by
    rw [stackByte_interruptEntry, if_neg (by bv_omega), show s.sp - 3 + 2 = s.sp - 1 by bv_omega]
  have hhigh : stackByte (s.sp - 3 + 3) (interruptEntry kind s) = stackByte s.sp (pushWord s.pc s) := by
    rw [stackByte_interruptEntry, if_neg (by bv_omega), BitVec.sub_add_cancel]
  have hrti := exec_rti (interruptEntry kind s)
  rw [hsp, hstatus, hlow, hhigh, wordOf_stackByte_pushWord] at hrti
  refine ⟨_, hrti, rfl, BitVec.sub_add_cancel s.sp 3, ?regA, ?regX, ?regY, getFlag_pulledStatus .b _,
    getFlag_pulledStatus .u _, fun f hf => ?kept⟩
  case regA | regX | regY => simp [hentry]
  case kept => exact (flagsKept_pulledStatus _ f hf).trans (flagsKept_pushedByInterrupt _ f hf)

end Sys2Proof.Proofs
end

section
/-! Proofs about jumps, flags, no-operation and halt (spec/49_jump_flag_misc.md): what an implied form answers that writes one
flag. -/

namespace Sys2Proof.Machine

open Sys2Proof.Claims

/-- A flag instruction takes two cycles (rules R84, R212 to R218). -/
theorem runImplied_of_putFlag {code : Byte} (s : State) (f : Flag) (v : Bool) (hcost : cost code false false = 2 := by rfl) :
    ∃ p, runImplied code (State.putFlag f v) s = .next { s with p := p, cycles := s.cycles + 2 }
      ∧ getFlag f p = v ∧ flagsKept [f] s.p p := by
  refine ⟨putFlag f v s.p, ?_, getFlag_putFlag_same f v s.p, flagsKept.refl.putFlag_right v (List.mem_singleton_self f)⟩
  rw [runImplied_next, hcost]
  rfl

end Sys2Proof.Machine
end

section
/-! The statements of spec/49_jump_flag_misc.md, settled. -/

namespace Sys2Proof.Proofs

open Sys2Proof.Machine Sys2Proof.Claims

/-- Settles O34: a jump goes where the resolver says, and the pointer's second byte is on the pointer's page
(`readPointer_indirect`). -/
theorem jumpsSetPc : Obligations.JumpsSetPc := by
  intro s w
  refine ⟨fun i _ => i.encodedAs_true, rfl, ?indirect⟩
  case indirect =>
    intro highAt
    show runJump 0x6C (.indirect w) State.setPC s = _
    rw [runJump_next, resolve_ea, resolve_snd, readPointer_indirect s (pageWrap_succ w), State.addCycles, State.setPC_cycles,
      State.afterRead_cycles, State.afterRead_cycles]
    rfl

/-- Settles O35: each is one `putFlag` (`runImplied_of_putFlag`). -/
theorem flagInstructionsWriteOneFlag : Obligations.FlagInstructionsWriteOneFlag := by
  intro s x hx
  refine ⟨x.1.encodedAs_true, ?_⟩
  simp only [List.mem_cons, List.not_mem_nil, or_false] at hx
  obtain rfl | rfl | rfl | rfl | rfl | rfl | rfl := hx
  · exact runImplied_of_putFlag s .c false
  · exact runImplied_of_putFlag s .c true
  · exact runImplied_of_putFlag s .i false
  · exact runImplied_of_putFlag s .i true
  · exact runImplied_of_putFlag s .d false
  · exact runImplied_of_putFlag s .d true
  · exact runImplied_of_putFlag s .v false

/-- Settles O36: NOP's effect is the identity and the halt's is `run` alone; a halted session stays so. -/
theorem nopAndHaltTouchNothingElse : Obligations.NopAndHaltTouchNothingElse := fun s =>
  ⟨Instr.encodedAs_true .nop, Instr.encodedAs_true .brk, runImplied_next 0xEA s id, runImplied_next 0x00 s halt,
    fun hi hf => sessionStep_halted hi hf rfl⟩

end Sys2Proof.Proofs
end

section
/-! Proofs about exceptions and the host's requests (spec/60_exceptions.md): the checks at the start of a step, and that no host
operation writes the fault mark. -/

namespace Sys2Proof.Machine

open Sys2Proof.Claims

variable {s t : State}

theorem sessionStep_faulted {f : Fault} (hi : s.initialised = true) (hf : s.fault = some f) :
    sessionStep s = (s, .fault f) := by
  simp only [sessionStep, hi, hf, if_true]

theorem pendingInterrupt_nmi (hn : s.nmiPending = true) : pendingInterrupt s = some .nmi := by
  simp [pendingInterrupt, hn]

theorem pendingInterrupt_irq (hn : s.nmiPending = false) (hq : s.irqLine = true) (hm : getFlag .i s.p = false) :
    pendingInterrupt s = some .irq := by
  simp [pendingInterrupt, State.flag, hn, hq, hm]

/-! ### The host's operations and the fault mark (rule R232) -/

@[simp] theorem hostReset_fault : (hostReset s).fault = s.fault := by simp [hostReset, memRead16]

theorem hostPreset_fault {r : PresetRegister} {v : Byte} (h : hostPreset r v s = .next t) : t.fault = s.fault := by
  unfold hostPreset at h
  split at h
  · cases r <;> cases h <;> rfl
  · cases h

theorem hostPresetPC_fault {v : Word} (h : hostPresetPC v s = .next t) : t.fault = s.fault := by
  unfold hostPresetPC at h
  split at h
  · cases h
    rfl
  · cases h

theorem hostDeclareRom_fault (a : Word) (v : Byte) : (hostDeclareRom a v s).fault = s.fault := by
  unfold hostDeclareRom
  split <;> simp

theorem hostDeclareRam_fault (a : Word) (v : Byte) : (hostDeclareRam a v s).fault = s.fault := by
  unfold hostDeclareRam
  split <;> simp

/-- No host operation writes the fault mark. -/
theorem hostDo_fault {op : HostOp} (h : hostDo op s = .next t) : t.fault = s.fault := by
  cases op
  case preset => exact hostPreset_fault h
  case presetPC => exact hostPresetPC_fault h
  all_goals cases h
  case reset => exact hostReset_fault
  case cancel | assertNmi | setIrq => rfl
  case load base bytes => exact hostLoad_fault s base bytes
  case deviceActs d tag => exact State.setDelegate_fault s d _
  case declareRom a v => exact hostDeclareRom_fault a v
  case declareRam a v => exact hostDeclareRam_fault a v

end Sys2Proof.Machine
end

section
/-! The statements of spec/60_exceptions.md, settled. -/

namespace Sys2Proof.Proofs

open Sys2Proof.Machine Sys2Proof.Claims

/-- Settles O45, by the lemma of each check. -/
theorem stepDecidesInPriorityOrder : Obligations.StepDecidesInPriorityOrder := fun _ =>
  ⟨sessionStep_uninitialised, fun hi _ hf => sessionStep_faulted hi hf, sessionStep_halted,
    fun hi hf hr hn => sessionStep_interrupt hi hf hr (pendingInterrupt_nmi hn),
    fun hi hf hr hn hq hm => sessionStep_interrupt hi hf hr (pendingInterrupt_irq hn hq hm), sessionStep_fetches⟩

/-- Settles O46: the fault is checked before all else in an initialised session, and no host operation writes the mark. -/
theorem faultPersistsForTheSession : Obligations.FaultPersistsForTheSession := by
  intro s f hi hf
  have hstep := sessionStep_faulted hi hf
  exact ⟨hstep, congrArg resultOf hstep, fun op t h => (hostDo_fault h).trans hf⟩

/-- Settles O48: the entry's transactions and registers (`interruptEntry_eq`). -/
theorem interruptEntrySavesAndVectors : Obligations.InterruptEntrySavesAndVectors := by
  intro s kind vector
  have hentry := interruptEntry_eq s kind
  refine ⟨pushedByInterrupt s.p, putFlag .i true s.p, ?entry, getFlag_pushedByInterrupt .b s.p,
    getFlag_pushedByInterrupt .u s.p, flagsKept_pushedByInterrupt s.p, getFlag_putFlag_same .i true s.p,
    flagsKept.refl.putFlag_right true⟩
  case entry =>
    cases kind with
    | nmi => exact hentry
    | irq => exact hentry

/-- Settles O60: each input is one setter, and the presets and `read_state` check the session mark first. -/
theorem hostInputsWriteTheirOwnState : Obligations.HostInputsWriteTheirOwnState := by
  intro s
  refine ⟨rfl, fun _ => rfl, rfl, fun hi v => ?presets, fun hi w => ?presetPC, fun hi => ?readState⟩
  case presets => exact ⟨if_pos hi, if_pos hi, if_pos hi, if_pos hi, if_pos hi⟩
  case presetPC => exact if_pos hi
  case readState => exact if_pos hi

end Sys2Proof.Proofs
end

section
/-! Proofs about reset and the cycle counter (spec/70_reset_and_hazards.md), first part: an instruction run with `n` more
cycles counted answers the same, with `n` more cycles counted. -/

namespace Sys2Proof.Machine

open Sys2Proof.Claims

theorem State.addCycles_comm (s : State) (m n : Nat) : (s.addCycles m).addCycles n = (s.addCycles n).addCycles m := by
  simp only [State.addCycles, Nat.add_right_comm]

/-- An effect that leaves the counter alone and does not look at it. -/
def IgnoresCycles (g : State → State) : Prop := ∀ s n, g (s.addCycles n) = (g s).addCycles n

/-- The same answer with `n` more cycles counted. -/
def outcomeAddCycles (n : Nat) : StepResult → StepResult
  | .next t => .next (t.addCycles n)
  | .fault f => .fault f
  | .refused r => .refused r

/-! ### The shapes of instructions -/

section Shapes

variable (s : State) (n : Nat) {code d : Byte} {o : Operand}

theorem runImplied_addCycles {g : State → State} (hg : IgnoresCycles g) :
    runImplied code g (s.addCycles n) = outcomeAddCycles n (runImplied code g s) := by
  rw [runImplied_next, runImplied_next, hg, State.addCycles_comm, outcomeAddCycles]

theorem runRead_addCycles {g : Byte → State → State} (hg : ∀ v, IgnoresCycles (g v)) :
    runRead code o g (s.addCycles n) = outcomeAddCycles n (runRead code o g s) := by
  rw [runRead_next, runRead_next, resolve_addCycles, readOperand_addCycles, hg, State.addCycles_comm, outcomeAddCycles]

theorem runStore_addCycles {v : State → Byte} (hv : ∀ u : State, v (u.addCycles n) = v u) :
    runStore code o v (s.addCycles n) = outcomeAddCycles n (runStore code o v s) := by
  rw [runStore_next, runStore_next, resolve_addCycles, hv, writeOperand_addCycles, State.addCycles_comm, outcomeAddCycles]

theorem runModify_addCycles {g : Byte → Byte → Byte × Byte} :
    runModify code o g (s.addCycles n) = outcomeAddCycles n (runModify code o g s) := by
  simp only [runModify_next, resolve_addCycles, readOperand_addCycles, State.addCycles_p, writeOperand_addCycles]
  exact congrArg _ (State.addCycles_comm (State.setP _ _) n _)

theorem runJump_addCycles {g : Word → State → State} (hg : ∀ a, IgnoresCycles (g a)) :
    runJump code o g (s.addCycles n) = outcomeAddCycles n (runJump code o g s) := by
  rw [runJump_next, runJump_next, resolve_addCycles, hg, State.addCycles_comm, outcomeAddCycles]

theorem runBranch_addCycles {taken : Bool} :
    runBranch code d taken (s.addCycles n) = outcomeAddCycles n (runBranch code d taken s) := by
  rw [runBranch_next, runBranch_next, outcomeAddCycles, ← State.addCycles_comm]
  cases taken <;> rfl

end Shapes

/-! ### The effects that use the stack -/

theorem pha_ignoresCycles : IgnoresCycles pha := fun s n => push_addCycles s s.a n

theorem php_ignoresCycles : IgnoresCycles php := fun s n => push_addCycles s (pushedByPhp s.p) n

theorem pla_ignoresCycles : IgnoresCycles pla := fun s n => by
  simp only [pla, pull_addCycles]
  rfl

theorem plp_ignoresCycles : IgnoresCycles plp := fun s n => by
  simp only [plp, pull_addCycles]
  rfl

theorem pushWord_ignoresCycles (w : Word) : IgnoresCycles (pushWord w) := fun s n => by
  simp only [pushWord, push_addCycles]

theorem pullWord_addCycles (s : State) (n : Nat) :
    pullWord (s.addCycles n) = ((pullWord s).1, (pullWord s).2.addCycles n) := by
  simp only [pullWord, pull_addCycles]

theorem jsr_ignoresCycles (a : Word) : IgnoresCycles (jsr a) := fun s n =>
  congrArg (State.setPC a) (pushWord_ignoresCycles (add16 s.pc 0xFFFF) s n)

theorem rts_ignoresCycles : IgnoresCycles rts := fun s n => by
  simp only [rts, pullWord_addCycles]
  rfl

theorem returnFromInterrupt_ignoresCycles : IgnoresCycles returnFromInterrupt := fun s n => by
  have hsetP (u : State) (p : Byte) : (u.addCycles n).setP p = (u.setP p).addCycles n := rfl
  simp only [returnFromInterrupt, pull_addCycles, hsetP, pullWord_addCycles]
  rfl

theorem execByMnemonic_addCycles (m : Mnemonic) (code : Byte) (o : Operand) (s : State) (n : Nat) :
    execByMnemonic m code o (s.addCycles n) = outcomeAddCycles n (execByMnemonic m code o s) := by
  cases m <;> simp only [execByMnemonic]
  -- operands in memory
  case lda | ldx | ldy | and | ora | eor | adc | sbc | cmp | cpx | cpy | bit =>
    exact runRead_addCycles s n fun _ _ _ => rfl
  case sta | stx | sty => exact runStore_addCycles s n fun _ => rfl
  case asl | lsr | rol | ror | inc | dec => exact runModify_addCycles s n
  -- control flow
  case jmp => exact runJump_addCycles s n fun _ _ _ => rfl
  case jsr => exact runJump_addCycles s n jsr_ignoresCycles
  case bpl | bmi | bvc | bvs | bcc | bcs | bne | beq => exact runBranch_addCycles s n
  case rts => exact runImplied_addCycles s n rts_ignoresCycles
  case rti => exact runImplied_addCycles s n returnFromInterrupt_ignoresCycles
  -- the stack
  case pha => exact runImplied_addCycles s n pha_ignoresCycles
  case php => exact runImplied_addCycles s n php_ignoresCycles
  case pla => exact runImplied_addCycles s n pla_ignoresCycles
  case plp => exact runImplied_addCycles s n plp_ignoresCycles
  -- registers, flags and `run` alone
  case txa | tya | tax | tay | tsx | txs | inx | dex | iny | dey | clc | sec | cli | sei | cld | sed | clv | nop | brk =>
    exact runImplied_addCycles s n fun _ _ => rfl

theorem exec_addCycles (i : Instr) (s : State) (n : Nat) : exec i (s.addCycles n) = outcomeAddCycles n (exec i s) := by
  rw [exec_eq, exec_eq, execByMnemonic_addCycles]

end Sys2Proof.Machine
end

section
/-! Proofs about reset and the cycle counter, second part: the whole step. -/

namespace Sys2Proof.Machine

open Sys2Proof.Claims

variable (s : State) (n : Nat)

theorem fetch_addCycles : fetch (s.addCycles n) = ((fetch s).1, (fetch s).2.addCycles n) := by
  simp only [fetch_eq, State.addCycles_pc, State.busByte_addCycles, State.afterRead_addCycles]
  rfl

theorem fetchOperands_addCycles (k : Nat) :
    fetchOperands k (s.addCycles n) = ((fetchOperands k s).1, (fetchOperands k s).2.addCycles n) := by
  induction k generalizing s with
  | zero => rfl
  | succ k ih => simp only [fetchOperands_succ, fetch_addCycles, ih]

theorem memRead16_addCycles (a : Word) : memRead16 a (s.addCycles n) = ((memRead16 a s).1, (memRead16 a s).2.addCycles n) := by
  simp only [memRead16, memRead, State.busByte_addCycles, State.afterRead_addCycles]

theorem interruptEntry_ignoresCycles (kind : InterruptKind) : IgnoresCycles (interruptEntry kind) := fun s n => by
  have hputFlag (u : State) : (u.addCycles n).putFlag .i true = (u.putFlag .i true).addCycles n := rfl
  have hlatch (u : State) : (u.addCycles n).setNmiPending false = (u.setNmiPending false).addCycles n := rfl
  cases kind <;>
    simp only [interruptEntry, State.addCycles_p, State.addCycles_pc, pushWord_ignoresCycles _ s n, push_addCycles,
      hputFlag, hlatch, memRead16_addCycles]
  case nmi | irq => exact State.addCycles_comm (State.setPC _ _) n 7

/-- One instruction: the bytes fetched are the same, so the same row and instruction are found. -/
theorem runInstruction_addCycles :
    runInstruction (s.addCycles n) = ((runInstruction s).1.addCycles n, (runInstruction s).2) := by
  unfold runInstruction
  simp only [fetch_addCycles, State.addCycles_pc]
  cases opcodeRecord (fetch s).1 with
  | none => rfl
  | some r =>
    simp only [fetchOperands_addCycles]
    cases decode ((fetch s).1 :: (fetchOperands (r.length - 1) (fetch s).2).1) with
    | error _ => rfl
    | ok p =>
      obtain ⟨t, ht⟩ := exec_next p.1 (fetchOperands (r.length - 1) (fetch s).2).2
      simp only [exec_addCycles, ht, outcomeAddCycles]

/-- A step: the first check that applies is the same, for none looks at the counter (rule R236). -/
theorem sessionStep_addCycles :
    sessionStep (s.addCycles n) = ((sessionStep s).1.addCycles n, (sessionStep s).2) := by
  cases hi : s.initialised with
  | false => rw [sessionStep_uninitialised hi, sessionStep_uninitialised (s := s.addCycles n) hi]
  | true =>
    cases hf : s.fault with
    | some f => rw [sessionStep_faulted hi hf, sessionStep_faulted (s := s.addCycles n) hi hf]
    | none =>
      cases hr : s.run with
      | halted => rw [sessionStep_halted hi hf hr, sessionStep_halted (s := s.addCycles n) hi hf hr]
      | running =>
        cases hp : pendingInterrupt s with
        | some kind =>
          rw [sessionStep_interrupt hi hf hr hp, sessionStep_interrupt (s := s.addCycles n) hi hf hr hp,
            interruptEntry_ignoresCycles]
        | none =>
          have hs : fetches s := ⟨hi, hf, hr, pendingInterrupt_eq_none_iff.mp hp⟩
          rw [sessionStep_fetches hs, sessionStep_fetches (s := s.addCycles n) hs, runInstruction_addCycles]

end Sys2Proof.Machine
end

section
/-! Proofs about reset and the cycle counter, third part: the rows of the table that rules R269 and R270 count by. -/

namespace Sys2Proof

theorem opcodeRecord_of_mem : ∀ r ∈ opcodeTable, opcodeRecord r.code = some r := by
  decide +kernel

theorem opcodeTable_pageCrossPenalty : ∀ r ∈ opcodeTable, r.pageCrossPenalty = true ↔
    (r.mnemonic ∈ [Mnemonic.adc, .and, .cmp, .eor, .lda, .ora, .sbc] ∧
        r.mode ∈ [AddressingMode.absoluteX, .absoluteY, .indirectY])
      ∨ (r.mnemonic = .ldx ∧ r.mode = .absoluteY) ∨ (r.mnemonic = .ldy ∧ r.mode = .absoluteX) := by
  decide +kernel

end Sys2Proof
end

section
/-! The statements of spec/70_reset_and_hazards.md, settled. -/

namespace Sys2Proof.Proofs

open Sys2Proof.Machine Sys2Proof.Claims

/-- Settles O54: no check, fetch, instruction or interrupt entry looks at the counter (`sessionStep_addCycles`). -/
theorem cycleCounterAffectsNothing : Obligations.CycleCounterAffectsNothing :=
  fun s n => sessionStep_addCycles s n

/-- Settles O15: each row is the one found for its byte, and the rows that pay the crossing are gone through once. -/
theorem cycleCostFollowsTheTable : Obligations.CycleCostFollowsTheTable := by
  refine ⟨fun r hr crossed taken => ?cost, opcodeTable_pageCrossPenalty⟩
  case cost =>
    rw [cost_of_row crossed taken (opcodeRecord_of_mem r hr)]
    simp only [Bool.and_eq_true, beq_iff_eq]

/-- Settles O55: setting registers has no part in the vector's two reads (`memRead16_withRegistersOf`). -/
theorem resetWritesExactlyItsRegisters : Obligations.ResetWritesExactlyItsRegisters := by
  intro s
  let r : State := { s with
    a := 0, x := 0, y := 0, p := Config.pReset, sp := Config.spReset, run := .running
    nmiPending := false, initialised := true }
  have hvector := memRead16_withRegistersOf s r Config.vecReset
  rw [perform_eq_withRegistersOf]
  exact congrArg (fun q : Word × State => q.2.setPC q.1) hvector

end Sys2Proof.Proofs
end
